-- ==== Sys2Proof/Word.lean ====
section
/-! DEFINITION. The two word widths of the core (spec R8). -/

namespace Sys2Proof

/-- A byte: A, X, Y, SP, P and every bus datum are 8 bits wide (R8). -/
abbrev Byte := BitVec 8

/-- A 16-bit word: PC and every address (R8). -/
abbrev Word := BitVec 16

end Sys2Proof
end

