-- ==== Sys2Proof/Syntax.lean ====
section
/-! DEFINITION. The instructions: one constructor for each legal row of the opcode table (spec R115), and one for the rows of the
mnemonic ILLEGAL (R117). -/

namespace Sys2Proof

/-- The 56 mnemonics (R2). -/
inductive Mnemonic where
  | adc | sbc | and | ora | eor | bit | asl | lsr | rol | ror | cmp | cpx | cpy | bcc
  | bcs | beq | bne | bmi | bpl | bvc | bvs | pha | php | pla | plp | jmp | jsr | rts
  | brk | rti | tax | tay | txa | tya | tsx | txs | inx | iny | dex | dey | inc | dec
  | lda | ldx | ldy | sta | stx | sty | clc | cld | cli | clv | sec | sed | sei | nop
  deriving DecidableEq, Repr

/-- The 13 addressing modes (R20, R101). -/
inductive Mode where
  | acc | imp | imm | zp | zpx | zpy | abs | abx | aby | ind | izx | izy | rel
  deriving DecidableEq, Repr

/-- The penalty classes of the opcode table: how `page_cross` enters the cycle count (R115, R120). -/
inductive Penalty where
  /-- `-`: no extra cycle. -/
  | fixed
  /-- `+1`: one more where the page is crossed. -/
  | pageCross
  /-- `st`: by `STORE_PAGE_PENALTY`. -/
  | store
  /-- `br`: the branch rule (R220). -/
  | branch
  deriving DecidableEq, Repr

/-- The number of operand bytes the core reads after the opcode (R101). -/
inductive OperandSize where
  | none
  | byte
  | word
  deriving DecidableEq, Repr

/-- An instruction with its operand bytes: `nn` a literal, `zz` a zero-page address, `oo` a branch offset, `addr` and `ptr` the
word `hh:ll` (R101). -/
inductive Instr where
  -- ADC (R150)
  | adcImm (nn : Byte)
  | adcZp (zz : Byte)
  | adcZpx (zz : Byte)
  | adcAbs (addr : Word)
  | adcAbx (addr : Word)
  | adcAby (addr : Word)
  | adcIzx (zz : Byte)
  | adcIzy (zz : Byte)
  -- SBC (R152)
  | sbcImm (nn : Byte)
  | sbcZp (zz : Byte)
  | sbcZpx (zz : Byte)
  | sbcAbs (addr : Word)
  | sbcAbx (addr : Word)
  | sbcAby (addr : Word)
  | sbcIzx (zz : Byte)
  | sbcIzy (zz : Byte)
  -- AND (R171)
  | andImm (nn : Byte)
  | andZp (zz : Byte)
  | andZpx (zz : Byte)
  | andAbs (addr : Word)
  | andAbx (addr : Word)
  | andAby (addr : Word)
  | andIzx (zz : Byte)
  | andIzy (zz : Byte)
  -- ORA (R172)
  | oraImm (nn : Byte)
  | oraZp (zz : Byte)
  | oraZpx (zz : Byte)
  | oraAbs (addr : Word)
  | oraAbx (addr : Word)
  | oraAby (addr : Word)
  | oraIzx (zz : Byte)
  | oraIzy (zz : Byte)
  -- EOR (R173)
  | eorImm (nn : Byte)
  | eorZp (zz : Byte)
  | eorZpx (zz : Byte)
  | eorAbs (addr : Word)
  | eorAbx (addr : Word)
  | eorAby (addr : Word)
  | eorIzx (zz : Byte)
  | eorIzy (zz : Byte)
  -- BIT (R174)
  | bitZp (zz : Byte)
  | bitAbs (addr : Word)
  -- ASL (R175)
  | aslAcc
  | aslZp (zz : Byte)
  | aslZpx (zz : Byte)
  | aslAbs (addr : Word)
  | aslAbx (addr : Word)
  -- LSR (R176)
  | lsrAcc
  | lsrZp (zz : Byte)
  | lsrZpx (zz : Byte)
  | lsrAbs (addr : Word)
  | lsrAbx (addr : Word)
  -- ROL (R177)
  | rolAcc
  | rolZp (zz : Byte)
  | rolZpx (zz : Byte)
  | rolAbs (addr : Word)
  | rolAbx (addr : Word)
  -- ROR (R178)
  | rorAcc
  | rorZp (zz : Byte)
  | rorZpx (zz : Byte)
  | rorAbs (addr : Word)
  | rorAbx (addr : Word)
  -- CMP (R201)
  | cmpImm (nn : Byte)
  | cmpZp (zz : Byte)
  | cmpZpx (zz : Byte)
  | cmpAbs (addr : Word)
  | cmpAbx (addr : Word)
  | cmpAby (addr : Word)
  | cmpIzx (zz : Byte)
  | cmpIzy (zz : Byte)
  -- CPX (R202)
  | cpxImm (nn : Byte)
  | cpxZp (zz : Byte)
  | cpxAbs (addr : Word)
  -- CPY (R203)
  | cpyImm (nn : Byte)
  | cpyZp (zz : Byte)
  | cpyAbs (addr : Word)
  -- BCC (R221)
  | bcc (oo : Byte)
  -- BCS (R222)
  | bcs (oo : Byte)
  -- BEQ (R223)
  | beq (oo : Byte)
  -- BNE (R224)
  | bne (oo : Byte)
  -- BMI (R225)
  | bmi (oo : Byte)
  -- BPL (R226)
  | bpl (oo : Byte)
  -- BVC (R227)
  | bvc (oo : Byte)
  -- BVS (R228)
  | bvs (oo : Byte)
  -- PHA (R240)
  | pha
  -- PHP (R241)
  | php
  -- PLA (R242)
  | pla
  -- PLP (R243)
  | plp
  -- JMP (R260)
  | jmpAbs (addr : Word)
  | jmpInd (ptr : Word)
  -- JSR (R261)
  | jsr (addr : Word)
  -- RTS (R262)
  | rts
  -- BRK (R263)
  | brk
  -- RTI (R264)
  | rti
  -- TAX (R290)
  | tax
  -- TAY (R291)
  | tay
  -- TXA (R292)
  | txa
  -- TYA (R293)
  | tya
  -- TSX (R294)
  | tsx
  -- TXS (R295)
  | txs
  -- INX (R296)
  | inx
  -- INY (R297)
  | iny
  -- DEX (R298)
  | dex
  -- DEY (R299)
  | dey
  -- INC (R300)
  | incZp (zz : Byte)
  | incZpx (zz : Byte)
  | incAbs (addr : Word)
  | incAbx (addr : Word)
  -- DEC (R301)
  | decZp (zz : Byte)
  | decZpx (zz : Byte)
  | decAbs (addr : Word)
  | decAbx (addr : Word)
  -- LDA (R320)
  | ldaImm (nn : Byte)
  | ldaZp (zz : Byte)
  | ldaZpx (zz : Byte)
  | ldaAbs (addr : Word)
  | ldaAbx (addr : Word)
  | ldaAby (addr : Word)
  | ldaIzx (zz : Byte)
  | ldaIzy (zz : Byte)
  -- LDX (R321)
  | ldxImm (nn : Byte)
  | ldxZp (zz : Byte)
  | ldxZpy (zz : Byte)
  | ldxAbs (addr : Word)
  | ldxAby (addr : Word)
  -- LDY (R322)
  | ldyImm (nn : Byte)
  | ldyZp (zz : Byte)
  | ldyZpx (zz : Byte)
  | ldyAbs (addr : Word)
  | ldyAbx (addr : Word)
  -- STA (R323)
  | staZp (zz : Byte)
  | staZpx (zz : Byte)
  | staAbs (addr : Word)
  | staAbx (addr : Word)
  | staAby (addr : Word)
  | staIzx (zz : Byte)
  | staIzy (zz : Byte)
  -- STX (R324)
  | stxZp (zz : Byte)
  | stxZpy (zz : Byte)
  | stxAbs (addr : Word)
  -- STY (R325)
  | styZp (zz : Byte)
  | styZpx (zz : Byte)
  | styAbs (addr : Word)
  -- CLC (R340)
  | clc
  -- CLD (R341)
  | cld
  -- CLI (R342)
  | cli
  -- CLV (R343)
  | clv
  -- SEC (R344)
  | sec
  -- SED (R345)
  | sed
  -- SEI (R346)
  | sei
  -- NOP (R347)
  | nop
  /-- The illegal-opcode descriptor with the byte that was fetched (R114, R117; log 15). -/
  | illegal (op : Byte)
  deriving DecidableEq, Repr

/-- The memory modes with their operand bytes (R101). -/
inductive MemMode where
  | zp (zz : Byte)
  | zpx (zz : Byte)
  | zpy (zz : Byte)
  | abs (addr : Word)
  | abx (addr : Word)
  | aby (addr : Word)
  | izx (zz : Byte)
  | izy (zz : Byte)
  deriving DecidableEq, Repr

/-- The source of a read instruction (R113): the literal of IMM (R103) or a byte of memory. -/
inductive Source where
  | imm (nn : Byte)
  | mem (m : MemMode)
  deriving DecidableEq, Repr

/-- An operand of any mode (R101). -/
inductive Operand where
  | implied
  | accumulator
  | source (src : Source)
  | indirect (ptr : Word)
  | relative (oo : Byte)
  deriving DecidableEq, Repr

/-- A row of the opcode table: the descriptor R114 gives an opcode byte, and the instruction it stands for given its operand bytes
in the order they are fetched. -/
structure OpcodeRow where
  opcode : Byte
  mnemonic : Mnemonic
  mode : Mode
  baseCycles : Nat
  penalty : Penalty
  build : Byte → Byte → Instr

end Sys2Proof
end

