-- ==== Sys2Proof/Decode.lean ====
section
/-! DEFINITION. The opcode table (spec R114 to R117), the decoder and the encoder (R100, R101, R118). -/

namespace Sys2Proof

/-! ### Words and bytes (R10, R11, R75) -/

/-- `hi:lo`, also `(hi << 8) | lo`: the word with `hi` in bits 15..8 (R11). -/
def mkWord (hi lo : Byte) : Word := (hi.setWidth 16 <<< 8) ||| lo.setWidth 16

/-- `v[7:0]` of a word. -/
def loByte (w : Word) : Byte := w.extractLsb' 0 8

/-- `v[15:8]` of a word: its page (R19). -/
def hiByte (w : Word) : Byte := w.extractLsb' 8 8

/-! ### The opcode table -/

/-- The operand bytes of each mode (R101). -/
def Mode.operandSize : Mode → OperandSize
  | .acc | .imp => .none
  | .imm | .zp | .zpx | .zpy | .izx | .izy | .rel => .byte
  | .abs | .abx | .aby | .ind => .word

/-- The legal opcodes 0x00 to 0x0F (R115). -/
def opcodeRows0x : List OpcodeRow :=
  [ ⟨0x00#8, .brk, .imp, 7, .fixed, fun _ _ => .brk⟩,
    ⟨0x01#8, .ora, .izx, 6, .fixed, fun zz _ => .oraIzx zz⟩,
    ⟨0x05#8, .ora, .zp, 3, .fixed, fun zz _ => .oraZp zz⟩,
    ⟨0x06#8, .asl, .zp, 5, .fixed, fun zz _ => .aslZp zz⟩,
    ⟨0x08#8, .php, .imp, 3, .fixed, fun _ _ => .php⟩,
    ⟨0x09#8, .ora, .imm, 2, .fixed, fun nn _ => .oraImm nn⟩,
    ⟨0x0A#8, .asl, .acc, 2, .fixed, fun _ _ => .aslAcc⟩,
    ⟨0x0D#8, .ora, .abs, 4, .fixed, fun ll hh => .oraAbs (mkWord hh ll)⟩,
    ⟨0x0E#8, .asl, .abs, 6, .fixed, fun ll hh => .aslAbs (mkWord hh ll)⟩ ]

/-- The legal opcodes 0x10 to 0x1F (R115). -/
def opcodeRows1x : List OpcodeRow :=
  [ ⟨0x10#8, .bpl, .rel, 2, .branch, fun oo _ => .bpl oo⟩,
    ⟨0x11#8, .ora, .izy, 5, .pageCross, fun zz _ => .oraIzy zz⟩,
    ⟨0x15#8, .ora, .zpx, 4, .fixed, fun zz _ => .oraZpx zz⟩,
    ⟨0x16#8, .asl, .zpx, 6, .fixed, fun zz _ => .aslZpx zz⟩,
    ⟨0x18#8, .clc, .imp, 2, .fixed, fun _ _ => .clc⟩,
    ⟨0x19#8, .ora, .aby, 4, .pageCross, fun ll hh => .oraAby (mkWord hh ll)⟩,
    ⟨0x1D#8, .ora, .abx, 4, .pageCross, fun ll hh => .oraAbx (mkWord hh ll)⟩,
    ⟨0x1E#8, .asl, .abx, 7, .fixed, fun ll hh => .aslAbx (mkWord hh ll)⟩ ]

/-- The legal opcodes 0x20 to 0x2F (R115). -/
def opcodeRows2x : List OpcodeRow :=
  [ ⟨0x20#8, .jsr, .abs, 6, .fixed, fun ll hh => .jsr (mkWord hh ll)⟩,
    ⟨0x21#8, .and, .izx, 6, .fixed, fun zz _ => .andIzx zz⟩,
    ⟨0x24#8, .bit, .zp, 3, .fixed, fun zz _ => .bitZp zz⟩,
    ⟨0x25#8, .and, .zp, 3, .fixed, fun zz _ => .andZp zz⟩,
    ⟨0x26#8, .rol, .zp, 5, .fixed, fun zz _ => .rolZp zz⟩,
    ⟨0x28#8, .plp, .imp, 4, .fixed, fun _ _ => .plp⟩,
    ⟨0x29#8, .and, .imm, 2, .fixed, fun nn _ => .andImm nn⟩,
    ⟨0x2A#8, .rol, .acc, 2, .fixed, fun _ _ => .rolAcc⟩,
    ⟨0x2C#8, .bit, .abs, 4, .fixed, fun ll hh => .bitAbs (mkWord hh ll)⟩,
    ⟨0x2D#8, .and, .abs, 4, .fixed, fun ll hh => .andAbs (mkWord hh ll)⟩,
    ⟨0x2E#8, .rol, .abs, 6, .fixed, fun ll hh => .rolAbs (mkWord hh ll)⟩ ]

/-- The legal opcodes 0x30 to 0x3F (R115). -/
def opcodeRows3x : List OpcodeRow :=
  [ ⟨0x30#8, .bmi, .rel, 2, .branch, fun oo _ => .bmi oo⟩,
    ⟨0x31#8, .and, .izy, 5, .pageCross, fun zz _ => .andIzy zz⟩,
    ⟨0x35#8, .and, .zpx, 4, .fixed, fun zz _ => .andZpx zz⟩,
    ⟨0x36#8, .rol, .zpx, 6, .fixed, fun zz _ => .rolZpx zz⟩,
    ⟨0x38#8, .sec, .imp, 2, .fixed, fun _ _ => .sec⟩,
    ⟨0x39#8, .and, .aby, 4, .pageCross, fun ll hh => .andAby (mkWord hh ll)⟩,
    ⟨0x3D#8, .and, .abx, 4, .pageCross, fun ll hh => .andAbx (mkWord hh ll)⟩,
    ⟨0x3E#8, .rol, .abx, 7, .fixed, fun ll hh => .rolAbx (mkWord hh ll)⟩ ]

/-- The legal opcodes 0x40 to 0x4F (R115). -/
def opcodeRows4x : List OpcodeRow :=
  [ ⟨0x40#8, .rti, .imp, 6, .fixed, fun _ _ => .rti⟩,
    ⟨0x41#8, .eor, .izx, 6, .fixed, fun zz _ => .eorIzx zz⟩,
    ⟨0x45#8, .eor, .zp, 3, .fixed, fun zz _ => .eorZp zz⟩,
    ⟨0x46#8, .lsr, .zp, 5, .fixed, fun zz _ => .lsrZp zz⟩,
    ⟨0x48#8, .pha, .imp, 3, .fixed, fun _ _ => .pha⟩,
    ⟨0x49#8, .eor, .imm, 2, .fixed, fun nn _ => .eorImm nn⟩,
    ⟨0x4A#8, .lsr, .acc, 2, .fixed, fun _ _ => .lsrAcc⟩,
    ⟨0x4C#8, .jmp, .abs, 3, .fixed, fun ll hh => .jmpAbs (mkWord hh ll)⟩,
    ⟨0x4D#8, .eor, .abs, 4, .fixed, fun ll hh => .eorAbs (mkWord hh ll)⟩,
    ⟨0x4E#8, .lsr, .abs, 6, .fixed, fun ll hh => .lsrAbs (mkWord hh ll)⟩ ]

/-- The legal opcodes 0x50 to 0x5F (R115). -/
def opcodeRows5x : List OpcodeRow :=
  [ ⟨0x50#8, .bvc, .rel, 2, .branch, fun oo _ => .bvc oo⟩,
    ⟨0x51#8, .eor, .izy, 5, .pageCross, fun zz _ => .eorIzy zz⟩,
    ⟨0x55#8, .eor, .zpx, 4, .fixed, fun zz _ => .eorZpx zz⟩,
    ⟨0x56#8, .lsr, .zpx, 6, .fixed, fun zz _ => .lsrZpx zz⟩,
    ⟨0x58#8, .cli, .imp, 2, .fixed, fun _ _ => .cli⟩,
    ⟨0x59#8, .eor, .aby, 4, .pageCross, fun ll hh => .eorAby (mkWord hh ll)⟩,
    ⟨0x5D#8, .eor, .abx, 4, .pageCross, fun ll hh => .eorAbx (mkWord hh ll)⟩,
    ⟨0x5E#8, .lsr, .abx, 7, .fixed, fun ll hh => .lsrAbx (mkWord hh ll)⟩ ]

/-- The legal opcodes 0x60 to 0x6F (R115). -/
def opcodeRows6x : List OpcodeRow :=
  [ ⟨0x60#8, .rts, .imp, 6, .fixed, fun _ _ => .rts⟩,
    ⟨0x61#8, .adc, .izx, 6, .fixed, fun zz _ => .adcIzx zz⟩,
    ⟨0x65#8, .adc, .zp, 3, .fixed, fun zz _ => .adcZp zz⟩,
    ⟨0x66#8, .ror, .zp, 5, .fixed, fun zz _ => .rorZp zz⟩,
    ⟨0x68#8, .pla, .imp, 4, .fixed, fun _ _ => .pla⟩,
    ⟨0x69#8, .adc, .imm, 2, .fixed, fun nn _ => .adcImm nn⟩,
    ⟨0x6A#8, .ror, .acc, 2, .fixed, fun _ _ => .rorAcc⟩,
    ⟨0x6C#8, .jmp, .ind, 5, .fixed, fun ll hh => .jmpInd (mkWord hh ll)⟩,
    ⟨0x6D#8, .adc, .abs, 4, .fixed, fun ll hh => .adcAbs (mkWord hh ll)⟩,
    ⟨0x6E#8, .ror, .abs, 6, .fixed, fun ll hh => .rorAbs (mkWord hh ll)⟩ ]

/-- The legal opcodes 0x70 to 0x7F (R115). -/
def opcodeRows7x : List OpcodeRow :=
  [ ⟨0x70#8, .bvs, .rel, 2, .branch, fun oo _ => .bvs oo⟩,
    ⟨0x71#8, .adc, .izy, 5, .pageCross, fun zz _ => .adcIzy zz⟩,
    ⟨0x75#8, .adc, .zpx, 4, .fixed, fun zz _ => .adcZpx zz⟩,
    ⟨0x76#8, .ror, .zpx, 6, .fixed, fun zz _ => .rorZpx zz⟩,
    ⟨0x78#8, .sei, .imp, 2, .fixed, fun _ _ => .sei⟩,
    ⟨0x79#8, .adc, .aby, 4, .pageCross, fun ll hh => .adcAby (mkWord hh ll)⟩,
    ⟨0x7D#8, .adc, .abx, 4, .pageCross, fun ll hh => .adcAbx (mkWord hh ll)⟩,
    ⟨0x7E#8, .ror, .abx, 7, .fixed, fun ll hh => .rorAbx (mkWord hh ll)⟩ ]

/-- The legal opcodes 0x80 to 0x8F (R115). -/
def opcodeRows8x : List OpcodeRow :=
  [ ⟨0x81#8, .sta, .izx, 6, .fixed, fun zz _ => .staIzx zz⟩,
    ⟨0x84#8, .sty, .zp, 3, .fixed, fun zz _ => .styZp zz⟩,
    ⟨0x85#8, .sta, .zp, 3, .fixed, fun zz _ => .staZp zz⟩,
    ⟨0x86#8, .stx, .zp, 3, .fixed, fun zz _ => .stxZp zz⟩,
    ⟨0x88#8, .dey, .imp, 2, .fixed, fun _ _ => .dey⟩,
    ⟨0x8A#8, .txa, .imp, 2, .fixed, fun _ _ => .txa⟩,
    ⟨0x8C#8, .sty, .abs, 4, .fixed, fun ll hh => .styAbs (mkWord hh ll)⟩,
    ⟨0x8D#8, .sta, .abs, 4, .fixed, fun ll hh => .staAbs (mkWord hh ll)⟩,
    ⟨0x8E#8, .stx, .abs, 4, .fixed, fun ll hh => .stxAbs (mkWord hh ll)⟩ ]

/-- The legal opcodes 0x90 to 0x9F (R115). -/
def opcodeRows9x : List OpcodeRow :=
  [ ⟨0x90#8, .bcc, .rel, 2, .branch, fun oo _ => .bcc oo⟩,
    ⟨0x91#8, .sta, .izy, 6, .store, fun zz _ => .staIzy zz⟩,
    ⟨0x94#8, .sty, .zpx, 4, .fixed, fun zz _ => .styZpx zz⟩,
    ⟨0x95#8, .sta, .zpx, 4, .fixed, fun zz _ => .staZpx zz⟩,
    ⟨0x96#8, .stx, .zpy, 4, .fixed, fun zz _ => .stxZpy zz⟩,
    ⟨0x98#8, .tya, .imp, 2, .fixed, fun _ _ => .tya⟩,
    ⟨0x99#8, .sta, .aby, 5, .store, fun ll hh => .staAby (mkWord hh ll)⟩,
    ⟨0x9A#8, .txs, .imp, 2, .fixed, fun _ _ => .txs⟩,
    ⟨0x9D#8, .sta, .abx, 5, .store, fun ll hh => .staAbx (mkWord hh ll)⟩ ]

/-- The legal opcodes 0xA0 to 0xAF (R115). -/
def opcodeRowsAx : List OpcodeRow :=
  [ ⟨0xA0#8, .ldy, .imm, 2, .fixed, fun nn _ => .ldyImm nn⟩,
    ⟨0xA1#8, .lda, .izx, 6, .fixed, fun zz _ => .ldaIzx zz⟩,
    ⟨0xA2#8, .ldx, .imm, 2, .fixed, fun nn _ => .ldxImm nn⟩,
    ⟨0xA4#8, .ldy, .zp, 3, .fixed, fun zz _ => .ldyZp zz⟩,
    ⟨0xA5#8, .lda, .zp, 3, .fixed, fun zz _ => .ldaZp zz⟩,
    ⟨0xA6#8, .ldx, .zp, 3, .fixed, fun zz _ => .ldxZp zz⟩,
    ⟨0xA8#8, .tay, .imp, 2, .fixed, fun _ _ => .tay⟩,
    ⟨0xA9#8, .lda, .imm, 2, .fixed, fun nn _ => .ldaImm nn⟩,
    ⟨0xAA#8, .tax, .imp, 2, .fixed, fun _ _ => .tax⟩,
    ⟨0xAC#8, .ldy, .abs, 4, .fixed, fun ll hh => .ldyAbs (mkWord hh ll)⟩,
    ⟨0xAD#8, .lda, .abs, 4, .fixed, fun ll hh => .ldaAbs (mkWord hh ll)⟩,
    ⟨0xAE#8, .ldx, .abs, 4, .fixed, fun ll hh => .ldxAbs (mkWord hh ll)⟩ ]

/-- The legal opcodes 0xB0 to 0xBF (R115). -/
def opcodeRowsBx : List OpcodeRow :=
  [ ⟨0xB0#8, .bcs, .rel, 2, .branch, fun oo _ => .bcs oo⟩,
    ⟨0xB1#8, .lda, .izy, 5, .pageCross, fun zz _ => .ldaIzy zz⟩,
    ⟨0xB4#8, .ldy, .zpx, 4, .fixed, fun zz _ => .ldyZpx zz⟩,
    ⟨0xB5#8, .lda, .zpx, 4, .fixed, fun zz _ => .ldaZpx zz⟩,
    ⟨0xB6#8, .ldx, .zpy, 4, .fixed, fun zz _ => .ldxZpy zz⟩,
    ⟨0xB8#8, .clv, .imp, 2, .fixed, fun _ _ => .clv⟩,
    ⟨0xB9#8, .lda, .aby, 4, .pageCross, fun ll hh => .ldaAby (mkWord hh ll)⟩,
    ⟨0xBA#8, .tsx, .imp, 2, .fixed, fun _ _ => .tsx⟩,
    ⟨0xBC#8, .ldy, .abx, 4, .pageCross, fun ll hh => .ldyAbx (mkWord hh ll)⟩,
    ⟨0xBD#8, .lda, .abx, 4, .pageCross, fun ll hh => .ldaAbx (mkWord hh ll)⟩,
    ⟨0xBE#8, .ldx, .aby, 4, .pageCross, fun ll hh => .ldxAby (mkWord hh ll)⟩ ]

/-- The legal opcodes 0xC0 to 0xCF (R115). -/
def opcodeRowsCx : List OpcodeRow :=
  [ ⟨0xC0#8, .cpy, .imm, 2, .fixed, fun nn _ => .cpyImm nn⟩,
    ⟨0xC1#8, .cmp, .izx, 6, .fixed, fun zz _ => .cmpIzx zz⟩,
    ⟨0xC4#8, .cpy, .zp, 3, .fixed, fun zz _ => .cpyZp zz⟩,
    ⟨0xC5#8, .cmp, .zp, 3, .fixed, fun zz _ => .cmpZp zz⟩,
    ⟨0xC6#8, .dec, .zp, 5, .fixed, fun zz _ => .decZp zz⟩,
    ⟨0xC8#8, .iny, .imp, 2, .fixed, fun _ _ => .iny⟩,
    ⟨0xC9#8, .cmp, .imm, 2, .fixed, fun nn _ => .cmpImm nn⟩,
    ⟨0xCA#8, .dex, .imp, 2, .fixed, fun _ _ => .dex⟩,
    ⟨0xCC#8, .cpy, .abs, 4, .fixed, fun ll hh => .cpyAbs (mkWord hh ll)⟩,
    ⟨0xCD#8, .cmp, .abs, 4, .fixed, fun ll hh => .cmpAbs (mkWord hh ll)⟩,
    ⟨0xCE#8, .dec, .abs, 6, .fixed, fun ll hh => .decAbs (mkWord hh ll)⟩ ]

/-- The legal opcodes 0xD0 to 0xDF (R115). -/
def opcodeRowsDx : List OpcodeRow :=
  [ ⟨0xD0#8, .bne, .rel, 2, .branch, fun oo _ => .bne oo⟩,
    ⟨0xD1#8, .cmp, .izy, 5, .pageCross, fun zz _ => .cmpIzy zz⟩,
    ⟨0xD5#8, .cmp, .zpx, 4, .fixed, fun zz _ => .cmpZpx zz⟩,
    ⟨0xD6#8, .dec, .zpx, 6, .fixed, fun zz _ => .decZpx zz⟩,
    ⟨0xD8#8, .cld, .imp, 2, .fixed, fun _ _ => .cld⟩,
    ⟨0xD9#8, .cmp, .aby, 4, .pageCross, fun ll hh => .cmpAby (mkWord hh ll)⟩,
    ⟨0xDD#8, .cmp, .abx, 4, .pageCross, fun ll hh => .cmpAbx (mkWord hh ll)⟩,
    ⟨0xDE#8, .dec, .abx, 7, .fixed, fun ll hh => .decAbx (mkWord hh ll)⟩ ]

/-- The legal opcodes 0xE0 to 0xEF (R115). -/
def opcodeRowsEx : List OpcodeRow :=
  [ ⟨0xE0#8, .cpx, .imm, 2, .fixed, fun nn _ => .cpxImm nn⟩,
    ⟨0xE1#8, .sbc, .izx, 6, .fixed, fun zz _ => .sbcIzx zz⟩,
    ⟨0xE4#8, .cpx, .zp, 3, .fixed, fun zz _ => .cpxZp zz⟩,
    ⟨0xE5#8, .sbc, .zp, 3, .fixed, fun zz _ => .sbcZp zz⟩,
    ⟨0xE6#8, .inc, .zp, 5, .fixed, fun zz _ => .incZp zz⟩,
    ⟨0xE8#8, .inx, .imp, 2, .fixed, fun _ _ => .inx⟩,
    ⟨0xE9#8, .sbc, .imm, 2, .fixed, fun nn _ => .sbcImm nn⟩,
    ⟨0xEA#8, .nop, .imp, 2, .fixed, fun _ _ => .nop⟩,
    ⟨0xEC#8, .cpx, .abs, 4, .fixed, fun ll hh => .cpxAbs (mkWord hh ll)⟩,
    ⟨0xED#8, .sbc, .abs, 4, .fixed, fun ll hh => .sbcAbs (mkWord hh ll)⟩,
    ⟨0xEE#8, .inc, .abs, 6, .fixed, fun ll hh => .incAbs (mkWord hh ll)⟩ ]

/-- The legal opcodes 0xF0 to 0xFF (R115). -/
def opcodeRowsFx : List OpcodeRow :=
  [ ⟨0xF0#8, .beq, .rel, 2, .branch, fun oo _ => .beq oo⟩,
    ⟨0xF1#8, .sbc, .izy, 5, .pageCross, fun zz _ => .sbcIzy zz⟩,
    ⟨0xF5#8, .sbc, .zpx, 4, .fixed, fun zz _ => .sbcZpx zz⟩,
    ⟨0xF6#8, .inc, .zpx, 6, .fixed, fun zz _ => .incZpx zz⟩,
    ⟨0xF8#8, .sed, .imp, 2, .fixed, fun _ _ => .sed⟩,
    ⟨0xF9#8, .sbc, .aby, 4, .pageCross, fun ll hh => .sbcAby (mkWord hh ll)⟩,
    ⟨0xFD#8, .sbc, .abx, 4, .pageCross, fun ll hh => .sbcAbx (mkWord hh ll)⟩,
    ⟨0xFE#8, .inc, .abx, 7, .fixed, fun ll hh => .incAbx (mkWord hh ll)⟩ ]

/-- The 151 legal opcodes in the order of R115. -/
def opcodeTable : List OpcodeRow :=
  opcodeRows0x ++ opcodeRows1x ++ opcodeRows2x ++ opcodeRows3x ++
  opcodeRows4x ++ opcodeRows5x ++ opcodeRows6x ++ opcodeRows7x ++
  opcodeRows8x ++ opcodeRows9x ++ opcodeRowsAx ++ opcodeRowsBx ++
  opcodeRowsCx ++ opcodeRowsDx ++ opcodeRowsEx ++ opcodeRowsFx

/-- `lookup` (R114): the descriptor of a legal opcode byte; none is the illegal-opcode descriptor. -/
def lookup (op : Byte) : Option OpcodeRow := opcodeTable.find? fun r => r.opcode == op

/-- The bytes of padding after the operand: one for BRK, skipped and not read (R101, R263). -/
def OpcodeRow.padding (r : OpcodeRow) : Nat := if r.mnemonic = .brk then 1 else 0

/-- `len` (R118): the bytes the instruction occupies. -/
def OpcodeRow.length (r : OpcodeRow) : Nat :=
  match r.mode.operandSize with
  | .none => 1 + r.padding
  | .byte => 2
  | .word => 3

/-! ### The decoder -/

/-- Why a list of bytes is no instruction: it ends too early. An illegal opcode is an instruction of its own (R114). -/
inductive DecodeError where
  | noOpcode
  | truncated (op : Byte)
  deriving DecidableEq, Repr

/-- The instruction at the head of a list of bytes, and the bytes after it (R100, R101). BRK's padding byte is dropped where it is
there; its value has no part in decoding (R263). -/
def decode (bytes : List Byte) : Except DecodeError (Instr × List Byte) :=
  match bytes with
  | [] => .error .noOpcode
  | op :: rest =>
    match lookup op with
    | none => .ok (.illegal op, rest)
    | some r =>
      match r.mode.operandSize, rest with
      | .none, rest => .ok (r.build 0 0, rest.drop r.padding)
      | .byte, b :: rest => .ok (r.build b 0, rest)
      | .word, ll :: hh :: rest => .ok (r.build ll hh, rest)
      | .byte, [] => .error (.truncated op)
      | .word, [] => .error (.truncated op)
      | .word, [_] => .error (.truncated op)

/-! ### The encoder -/

/-- The bytes of an instruction in address order (R101, R115); BRK's padding byte is 00 (R121). -/
def encode : Instr → List Byte
  | .adcImm nn => [0x69#8, nn]
  | .adcZp zz => [0x65#8, zz]
  | .adcZpx zz => [0x75#8, zz]
  | .adcAbs addr => [0x6D#8, loByte addr, hiByte addr]
  | .adcAbx addr => [0x7D#8, loByte addr, hiByte addr]
  | .adcAby addr => [0x79#8, loByte addr, hiByte addr]
  | .adcIzx zz => [0x61#8, zz]
  | .adcIzy zz => [0x71#8, zz]
  | .sbcImm nn => [0xE9#8, nn]
  | .sbcZp zz => [0xE5#8, zz]
  | .sbcZpx zz => [0xF5#8, zz]
  | .sbcAbs addr => [0xED#8, loByte addr, hiByte addr]
  | .sbcAbx addr => [0xFD#8, loByte addr, hiByte addr]
  | .sbcAby addr => [0xF9#8, loByte addr, hiByte addr]
  | .sbcIzx zz => [0xE1#8, zz]
  | .sbcIzy zz => [0xF1#8, zz]
  | .andImm nn => [0x29#8, nn]
  | .andZp zz => [0x25#8, zz]
  | .andZpx zz => [0x35#8, zz]
  | .andAbs addr => [0x2D#8, loByte addr, hiByte addr]
  | .andAbx addr => [0x3D#8, loByte addr, hiByte addr]
  | .andAby addr => [0x39#8, loByte addr, hiByte addr]
  | .andIzx zz => [0x21#8, zz]
  | .andIzy zz => [0x31#8, zz]
  | .oraImm nn => [0x09#8, nn]
  | .oraZp zz => [0x05#8, zz]
  | .oraZpx zz => [0x15#8, zz]
  | .oraAbs addr => [0x0D#8, loByte addr, hiByte addr]
  | .oraAbx addr => [0x1D#8, loByte addr, hiByte addr]
  | .oraAby addr => [0x19#8, loByte addr, hiByte addr]
  | .oraIzx zz => [0x01#8, zz]
  | .oraIzy zz => [0x11#8, zz]
  | .eorImm nn => [0x49#8, nn]
  | .eorZp zz => [0x45#8, zz]
  | .eorZpx zz => [0x55#8, zz]
  | .eorAbs addr => [0x4D#8, loByte addr, hiByte addr]
  | .eorAbx addr => [0x5D#8, loByte addr, hiByte addr]
  | .eorAby addr => [0x59#8, loByte addr, hiByte addr]
  | .eorIzx zz => [0x41#8, zz]
  | .eorIzy zz => [0x51#8, zz]
  | .bitZp zz => [0x24#8, zz]
  | .bitAbs addr => [0x2C#8, loByte addr, hiByte addr]
  | .aslAcc => [0x0A#8]
  | .aslZp zz => [0x06#8, zz]
  | .aslZpx zz => [0x16#8, zz]
  | .aslAbs addr => [0x0E#8, loByte addr, hiByte addr]
  | .aslAbx addr => [0x1E#8, loByte addr, hiByte addr]
  | .lsrAcc => [0x4A#8]
  | .lsrZp zz => [0x46#8, zz]
  | .lsrZpx zz => [0x56#8, zz]
  | .lsrAbs addr => [0x4E#8, loByte addr, hiByte addr]
  | .lsrAbx addr => [0x5E#8, loByte addr, hiByte addr]
  | .rolAcc => [0x2A#8]
  | .rolZp zz => [0x26#8, zz]
  | .rolZpx zz => [0x36#8, zz]
  | .rolAbs addr => [0x2E#8, loByte addr, hiByte addr]
  | .rolAbx addr => [0x3E#8, loByte addr, hiByte addr]
  | .rorAcc => [0x6A#8]
  | .rorZp zz => [0x66#8, zz]
  | .rorZpx zz => [0x76#8, zz]
  | .rorAbs addr => [0x6E#8, loByte addr, hiByte addr]
  | .rorAbx addr => [0x7E#8, loByte addr, hiByte addr]
  | .cmpImm nn => [0xC9#8, nn]
  | .cmpZp zz => [0xC5#8, zz]
  | .cmpZpx zz => [0xD5#8, zz]
  | .cmpAbs addr => [0xCD#8, loByte addr, hiByte addr]
  | .cmpAbx addr => [0xDD#8, loByte addr, hiByte addr]
  | .cmpAby addr => [0xD9#8, loByte addr, hiByte addr]
  | .cmpIzx zz => [0xC1#8, zz]
  | .cmpIzy zz => [0xD1#8, zz]
  | .cpxImm nn => [0xE0#8, nn]
  | .cpxZp zz => [0xE4#8, zz]
  | .cpxAbs addr => [0xEC#8, loByte addr, hiByte addr]
  | .cpyImm nn => [0xC0#8, nn]
  | .cpyZp zz => [0xC4#8, zz]
  | .cpyAbs addr => [0xCC#8, loByte addr, hiByte addr]
  | .bcc oo => [0x90#8, oo]
  | .bcs oo => [0xB0#8, oo]
  | .beq oo => [0xF0#8, oo]
  | .bne oo => [0xD0#8, oo]
  | .bmi oo => [0x30#8, oo]
  | .bpl oo => [0x10#8, oo]
  | .bvc oo => [0x50#8, oo]
  | .bvs oo => [0x70#8, oo]
  | .pha => [0x48#8]
  | .php => [0x08#8]
  | .pla => [0x68#8]
  | .plp => [0x28#8]
  | .jmpAbs addr => [0x4C#8, loByte addr, hiByte addr]
  | .jmpInd ptr => [0x6C#8, loByte ptr, hiByte ptr]
  | .jsr addr => [0x20#8, loByte addr, hiByte addr]
  | .rts => [0x60#8]
  | .brk => [0x00#8, 0x00#8]
  | .rti => [0x40#8]
  | .tax => [0xAA#8]
  | .tay => [0xA8#8]
  | .txa => [0x8A#8]
  | .tya => [0x98#8]
  | .tsx => [0xBA#8]
  | .txs => [0x9A#8]
  | .inx => [0xE8#8]
  | .iny => [0xC8#8]
  | .dex => [0xCA#8]
  | .dey => [0x88#8]
  | .incZp zz => [0xE6#8, zz]
  | .incZpx zz => [0xF6#8, zz]
  | .incAbs addr => [0xEE#8, loByte addr, hiByte addr]
  | .incAbx addr => [0xFE#8, loByte addr, hiByte addr]
  | .decZp zz => [0xC6#8, zz]
  | .decZpx zz => [0xD6#8, zz]
  | .decAbs addr => [0xCE#8, loByte addr, hiByte addr]
  | .decAbx addr => [0xDE#8, loByte addr, hiByte addr]
  | .ldaImm nn => [0xA9#8, nn]
  | .ldaZp zz => [0xA5#8, zz]
  | .ldaZpx zz => [0xB5#8, zz]
  | .ldaAbs addr => [0xAD#8, loByte addr, hiByte addr]
  | .ldaAbx addr => [0xBD#8, loByte addr, hiByte addr]
  | .ldaAby addr => [0xB9#8, loByte addr, hiByte addr]
  | .ldaIzx zz => [0xA1#8, zz]
  | .ldaIzy zz => [0xB1#8, zz]
  | .ldxImm nn => [0xA2#8, nn]
  | .ldxZp zz => [0xA6#8, zz]
  | .ldxZpy zz => [0xB6#8, zz]
  | .ldxAbs addr => [0xAE#8, loByte addr, hiByte addr]
  | .ldxAby addr => [0xBE#8, loByte addr, hiByte addr]
  | .ldyImm nn => [0xA0#8, nn]
  | .ldyZp zz => [0xA4#8, zz]
  | .ldyZpx zz => [0xB4#8, zz]
  | .ldyAbs addr => [0xAC#8, loByte addr, hiByte addr]
  | .ldyAbx addr => [0xBC#8, loByte addr, hiByte addr]
  | .staZp zz => [0x85#8, zz]
  | .staZpx zz => [0x95#8, zz]
  | .staAbs addr => [0x8D#8, loByte addr, hiByte addr]
  | .staAbx addr => [0x9D#8, loByte addr, hiByte addr]
  | .staAby addr => [0x99#8, loByte addr, hiByte addr]
  | .staIzx zz => [0x81#8, zz]
  | .staIzy zz => [0x91#8, zz]
  | .stxZp zz => [0x86#8, zz]
  | .stxZpy zz => [0x96#8, zz]
  | .stxAbs addr => [0x8E#8, loByte addr, hiByte addr]
  | .styZp zz => [0x84#8, zz]
  | .styZpx zz => [0x94#8, zz]
  | .styAbs addr => [0x8C#8, loByte addr, hiByte addr]
  | .clc => [0x18#8]
  | .cld => [0xD8#8]
  | .cli => [0x58#8]
  | .clv => [0xB8#8]
  | .sec => [0x38#8]
  | .sed => [0xF8#8]
  | .sei => [0x78#8]
  | .nop => [0xEA#8]
  | .illegal op => [op]

/-! ### An instruction's mnemonic, operand and table row -/

/-- The mnemonic; none for an illegal opcode (R115, R117). -/
def Instr.mnemonic : Instr → Option Mnemonic
  | .adcImm _ | .adcZp _ | .adcZpx _ | .adcAbs _ | .adcAbx _ | .adcAby _ | .adcIzx _ | .adcIzy _ => some .adc
  | .sbcImm _ | .sbcZp _ | .sbcZpx _ | .sbcAbs _ | .sbcAbx _ | .sbcAby _ | .sbcIzx _ | .sbcIzy _ => some .sbc
  | .andImm _ | .andZp _ | .andZpx _ | .andAbs _ | .andAbx _ | .andAby _ | .andIzx _ | .andIzy _ => some .and
  | .oraImm _ | .oraZp _ | .oraZpx _ | .oraAbs _ | .oraAbx _ | .oraAby _ | .oraIzx _ | .oraIzy _ => some .ora
  | .eorImm _ | .eorZp _ | .eorZpx _ | .eorAbs _ | .eorAbx _ | .eorAby _ | .eorIzx _ | .eorIzy _ => some .eor
  | .bitZp _ | .bitAbs _ => some .bit
  | .aslAcc | .aslZp _ | .aslZpx _ | .aslAbs _ | .aslAbx _ => some .asl
  | .lsrAcc | .lsrZp _ | .lsrZpx _ | .lsrAbs _ | .lsrAbx _ => some .lsr
  | .rolAcc | .rolZp _ | .rolZpx _ | .rolAbs _ | .rolAbx _ => some .rol
  | .rorAcc | .rorZp _ | .rorZpx _ | .rorAbs _ | .rorAbx _ => some .ror
  | .cmpImm _ | .cmpZp _ | .cmpZpx _ | .cmpAbs _ | .cmpAbx _ | .cmpAby _ | .cmpIzx _ | .cmpIzy _ => some .cmp
  | .cpxImm _ | .cpxZp _ | .cpxAbs _ => some .cpx
  | .cpyImm _ | .cpyZp _ | .cpyAbs _ => some .cpy
  | .bcc _ => some .bcc
  | .bcs _ => some .bcs
  | .beq _ => some .beq
  | .bne _ => some .bne
  | .bmi _ => some .bmi
  | .bpl _ => some .bpl
  | .bvc _ => some .bvc
  | .bvs _ => some .bvs
  | .pha => some .pha
  | .php => some .php
  | .pla => some .pla
  | .plp => some .plp
  | .jmpAbs _ | .jmpInd _ => some .jmp
  | .jsr _ => some .jsr
  | .rts => some .rts
  | .brk => some .brk
  | .rti => some .rti
  | .tax => some .tax
  | .tay => some .tay
  | .txa => some .txa
  | .tya => some .tya
  | .tsx => some .tsx
  | .txs => some .txs
  | .inx => some .inx
  | .iny => some .iny
  | .dex => some .dex
  | .dey => some .dey
  | .incZp _ | .incZpx _ | .incAbs _ | .incAbx _ => some .inc
  | .decZp _ | .decZpx _ | .decAbs _ | .decAbx _ => some .dec
  | .ldaImm _ | .ldaZp _ | .ldaZpx _ | .ldaAbs _ | .ldaAbx _ | .ldaAby _ | .ldaIzx _ | .ldaIzy _ => some .lda
  | .ldxImm _ | .ldxZp _ | .ldxZpy _ | .ldxAbs _ | .ldxAby _ => some .ldx
  | .ldyImm _ | .ldyZp _ | .ldyZpx _ | .ldyAbs _ | .ldyAbx _ => some .ldy
  | .staZp _ | .staZpx _ | .staAbs _ | .staAbx _ | .staAby _ | .staIzx _ | .staIzy _ => some .sta
  | .stxZp _ | .stxZpy _ | .stxAbs _ => some .stx
  | .styZp _ | .styZpx _ | .styAbs _ => some .sty
  | .clc => some .clc
  | .cld => some .cld
  | .cli => some .cli
  | .clv => some .clv
  | .sec => some .sec
  | .sed => some .sed
  | .sei => some .sei
  | .nop => some .nop
  | .illegal _ => none

/-- The operand (R101, R115); an illegal opcode has none. -/
def Instr.operand : Instr → Operand
  | .adcImm nn => .source (.imm nn)
  | .adcZp zz => .source (.mem (.zp zz))
  | .adcZpx zz => .source (.mem (.zpx zz))
  | .adcAbs addr => .source (.mem (.abs addr))
  | .adcAbx addr => .source (.mem (.abx addr))
  | .adcAby addr => .source (.mem (.aby addr))
  | .adcIzx zz => .source (.mem (.izx zz))
  | .adcIzy zz => .source (.mem (.izy zz))
  | .sbcImm nn => .source (.imm nn)
  | .sbcZp zz => .source (.mem (.zp zz))
  | .sbcZpx zz => .source (.mem (.zpx zz))
  | .sbcAbs addr => .source (.mem (.abs addr))
  | .sbcAbx addr => .source (.mem (.abx addr))
  | .sbcAby addr => .source (.mem (.aby addr))
  | .sbcIzx zz => .source (.mem (.izx zz))
  | .sbcIzy zz => .source (.mem (.izy zz))
  | .andImm nn => .source (.imm nn)
  | .andZp zz => .source (.mem (.zp zz))
  | .andZpx zz => .source (.mem (.zpx zz))
  | .andAbs addr => .source (.mem (.abs addr))
  | .andAbx addr => .source (.mem (.abx addr))
  | .andAby addr => .source (.mem (.aby addr))
  | .andIzx zz => .source (.mem (.izx zz))
  | .andIzy zz => .source (.mem (.izy zz))
  | .oraImm nn => .source (.imm nn)
  | .oraZp zz => .source (.mem (.zp zz))
  | .oraZpx zz => .source (.mem (.zpx zz))
  | .oraAbs addr => .source (.mem (.abs addr))
  | .oraAbx addr => .source (.mem (.abx addr))
  | .oraAby addr => .source (.mem (.aby addr))
  | .oraIzx zz => .source (.mem (.izx zz))
  | .oraIzy zz => .source (.mem (.izy zz))
  | .eorImm nn => .source (.imm nn)
  | .eorZp zz => .source (.mem (.zp zz))
  | .eorZpx zz => .source (.mem (.zpx zz))
  | .eorAbs addr => .source (.mem (.abs addr))
  | .eorAbx addr => .source (.mem (.abx addr))
  | .eorAby addr => .source (.mem (.aby addr))
  | .eorIzx zz => .source (.mem (.izx zz))
  | .eorIzy zz => .source (.mem (.izy zz))
  | .bitZp zz => .source (.mem (.zp zz))
  | .bitAbs addr => .source (.mem (.abs addr))
  | .aslAcc => .accumulator
  | .aslZp zz => .source (.mem (.zp zz))
  | .aslZpx zz => .source (.mem (.zpx zz))
  | .aslAbs addr => .source (.mem (.abs addr))
  | .aslAbx addr => .source (.mem (.abx addr))
  | .lsrAcc => .accumulator
  | .lsrZp zz => .source (.mem (.zp zz))
  | .lsrZpx zz => .source (.mem (.zpx zz))
  | .lsrAbs addr => .source (.mem (.abs addr))
  | .lsrAbx addr => .source (.mem (.abx addr))
  | .rolAcc => .accumulator
  | .rolZp zz => .source (.mem (.zp zz))
  | .rolZpx zz => .source (.mem (.zpx zz))
  | .rolAbs addr => .source (.mem (.abs addr))
  | .rolAbx addr => .source (.mem (.abx addr))
  | .rorAcc => .accumulator
  | .rorZp zz => .source (.mem (.zp zz))
  | .rorZpx zz => .source (.mem (.zpx zz))
  | .rorAbs addr => .source (.mem (.abs addr))
  | .rorAbx addr => .source (.mem (.abx addr))
  | .cmpImm nn => .source (.imm nn)
  | .cmpZp zz => .source (.mem (.zp zz))
  | .cmpZpx zz => .source (.mem (.zpx zz))
  | .cmpAbs addr => .source (.mem (.abs addr))
  | .cmpAbx addr => .source (.mem (.abx addr))
  | .cmpAby addr => .source (.mem (.aby addr))
  | .cmpIzx zz => .source (.mem (.izx zz))
  | .cmpIzy zz => .source (.mem (.izy zz))
  | .cpxImm nn => .source (.imm nn)
  | .cpxZp zz => .source (.mem (.zp zz))
  | .cpxAbs addr => .source (.mem (.abs addr))
  | .cpyImm nn => .source (.imm nn)
  | .cpyZp zz => .source (.mem (.zp zz))
  | .cpyAbs addr => .source (.mem (.abs addr))
  | .bcc oo => .relative oo
  | .bcs oo => .relative oo
  | .beq oo => .relative oo
  | .bne oo => .relative oo
  | .bmi oo => .relative oo
  | .bpl oo => .relative oo
  | .bvc oo => .relative oo
  | .bvs oo => .relative oo
  | .pha => .implied
  | .php => .implied
  | .pla => .implied
  | .plp => .implied
  | .jmpAbs addr => .source (.mem (.abs addr))
  | .jmpInd ptr => .indirect ptr
  | .jsr addr => .source (.mem (.abs addr))
  | .rts => .implied
  | .brk => .implied
  | .rti => .implied
  | .tax => .implied
  | .tay => .implied
  | .txa => .implied
  | .tya => .implied
  | .tsx => .implied
  | .txs => .implied
  | .inx => .implied
  | .iny => .implied
  | .dex => .implied
  | .dey => .implied
  | .incZp zz => .source (.mem (.zp zz))
  | .incZpx zz => .source (.mem (.zpx zz))
  | .incAbs addr => .source (.mem (.abs addr))
  | .incAbx addr => .source (.mem (.abx addr))
  | .decZp zz => .source (.mem (.zp zz))
  | .decZpx zz => .source (.mem (.zpx zz))
  | .decAbs addr => .source (.mem (.abs addr))
  | .decAbx addr => .source (.mem (.abx addr))
  | .ldaImm nn => .source (.imm nn)
  | .ldaZp zz => .source (.mem (.zp zz))
  | .ldaZpx zz => .source (.mem (.zpx zz))
  | .ldaAbs addr => .source (.mem (.abs addr))
  | .ldaAbx addr => .source (.mem (.abx addr))
  | .ldaAby addr => .source (.mem (.aby addr))
  | .ldaIzx zz => .source (.mem (.izx zz))
  | .ldaIzy zz => .source (.mem (.izy zz))
  | .ldxImm nn => .source (.imm nn)
  | .ldxZp zz => .source (.mem (.zp zz))
  | .ldxZpy zz => .source (.mem (.zpy zz))
  | .ldxAbs addr => .source (.mem (.abs addr))
  | .ldxAby addr => .source (.mem (.aby addr))
  | .ldyImm nn => .source (.imm nn)
  | .ldyZp zz => .source (.mem (.zp zz))
  | .ldyZpx zz => .source (.mem (.zpx zz))
  | .ldyAbs addr => .source (.mem (.abs addr))
  | .ldyAbx addr => .source (.mem (.abx addr))
  | .staZp zz => .source (.mem (.zp zz))
  | .staZpx zz => .source (.mem (.zpx zz))
  | .staAbs addr => .source (.mem (.abs addr))
  | .staAbx addr => .source (.mem (.abx addr))
  | .staAby addr => .source (.mem (.aby addr))
  | .staIzx zz => .source (.mem (.izx zz))
  | .staIzy zz => .source (.mem (.izy zz))
  | .stxZp zz => .source (.mem (.zp zz))
  | .stxZpy zz => .source (.mem (.zpy zz))
  | .stxAbs addr => .source (.mem (.abs addr))
  | .styZp zz => .source (.mem (.zp zz))
  | .styZpx zz => .source (.mem (.zpx zz))
  | .styAbs addr => .source (.mem (.abs addr))
  | .clc => .implied
  | .cld => .implied
  | .cli => .implied
  | .clv => .implied
  | .sec => .implied
  | .sed => .implied
  | .sei => .implied
  | .nop => .implied
  | .illegal _ => .implied

/-- The source of an instruction whose operand is a literal or a byte of memory (R113). -/
def Instr.source (i : Instr) : Option Source :=
  match i.operand with
  | .source src => some src
  | .implied | .accumulator | .indirect _ | .relative _ => none

/-- The memory operand of an instruction, if it has one. -/
def Instr.memMode (i : Instr) : Option MemMode :=
  match i.operand with
  | .source (.mem m) => some m
  | .source (.imm _) | .implied | .accumulator | .indirect _ | .relative _ => none

/-- The mode of a memory operand (R101). -/
def MemMode.mode : MemMode → Mode
  | .zp _ => .zp
  | .zpx _ => .zpx
  | .zpy _ => .zpy
  | .abs _ => .abs
  | .abx _ => .abx
  | .aby _ => .aby
  | .izx _ => .izx
  | .izy _ => .izy

/-- The addressing mode of an operand (R101). -/
def Operand.mode : Operand → Mode
  | .implied => .imp
  | .accumulator => .acc
  | .source (.imm _) => .imm
  | .source (.mem m) => m.mode
  | .indirect _ => .ind
  | .relative _ => .rel

/-- The opcode byte of an instruction. -/
def Instr.opcode (i : Instr) : Byte := (encode i).headD 0x00#8

/-- The bytes of an instruction the core reads: all but BRK's padding byte (R113, R263). -/
def Instr.fetchLength (i : Instr) : Nat :=
  match i.operand with
  | .implied | .accumulator => 1
  | .source (.imm _) | .relative _ => 2
  | .source (.mem m) =>
    match m.mode.operandSize with
    | .none => 1
    | .byte => 2
    | .word => 3
  | .indirect _ => 3

/-! ### The opcode table's numbering -/

/-- Byte `k` of a number, the byte at the `k`-th address. -/
def byteOf (w k : Nat) : Byte := BitVec.ofNat 8 (w / 256 ^ k)

/-- The bytes, in address order, of an instruction whose `nbits` bits are `w` with the first byte lowest; the bits above are 0. -/
def tableBytes (nbits w : Nat) : List Byte := [byteOf (w % 2 ^ nbits) 0, byteOf (w % 2 ^ nbits) 1, byteOf (w % 2 ^ nbits) 2]

/-- The instruction the decoder reads from such a number. -/
def decodeTableWord (nbits w : Nat) : Option Instr :=
  match decode (tableBytes nbits w) with
  | .ok (i, _) => some i
  | .error _ => none

end Sys2Proof
end

