-- ==== Sys2Proof/Config.lean ====
section
/-! DEFINITION. The spec's named parameters (R9) and the free values: opaque constants that nothing can evaluate. -/

namespace Sys2Proof

/-- `DECIMAL_MODEL` (R9, D17): how ADC and SBC behave with D = 1. -/
inductive DecimalModel where
  /-- The NMOS algorithm, defined for every operand (R151, R153). The default. -/
  | nmos
  /-- Exact only for valid packed BCD; flags and non-BCD results are draws (R154). -/
  | validBcdOnly
  deriving DecidableEq, Repr

/-- `STORE_PAGE_PENALTY` (R9, D18): the cycle count of indexed stores. It affects nothing else. -/
inductive StorePagePenalty where
  /-- The longer count, whether or not the page is crossed. The default. -/
  | always
  /-- One cycle less where the page is not crossed. -/
  | onCross
  deriving DecidableEq, Repr

/-- The parameters R9 names, both values of each being modelled.
DESIGN CHOICE (log 3): `State` carries them, no operation writes them. -/
structure Params where
  decimalModel : DecimalModel
  storePagePenalty : StorePagePenalty
  deriving DecidableEq, Repr

/-- The defaults of D17 and D18. -/
def Params.default : Params := ⟨.nmos, .always⟩

/-- Free bytes (the spec's 'draw' and 'unspecified'): the n-th is any byte (log 8). -/
opaque Config.freeByte : Nat → Byte

/-- Free 16-bit words: the n-th is any word (log 8). -/
opaque Config.freeWord : Nat → Word

end Sys2Proof
end

