-- ==== Sys2Proof/Machine/State.lean ====
section
/-! DEFINITION. The machine's state as plain data (spec R30 to R49, R72), its faults and refusals, and the state after reset. -/

namespace Sys2Proof.Machine

/-- The kind of a bus access (R70, R410). -/
inductive AccessKind where
  | read
  | write
  deriving DecidableEq, Repr

/-- What the bus reports with a rejection, passed on unmodified (R407). DESIGN CHOICE (log 11): any value, coded as a number. -/
abbrev BusInfo := Nat

/-- The bus's answer to one access (R70, R72, D35). DESIGN CHOICE (log 1). -/
inductive BusReply where
  /-- The plain memory answers: a read returns the byte stored there, a write stores (R72). -/
  | memory
  /-- Something else answers: a read returns `v`; a write is accepted and the memory does not change. -/
  | device (v : Byte)
  /-- The bus rejects the access (R407). -/
  | reject (info : BusInfo)
  deriving DecidableEq, Repr

/-- The operations that make bus accesses; each opens a section of the event history. -/
inductive BusOp where
  | reset
  | step
  deriving DecidableEq, Repr

/-- One entry of the event history (R72). The position of an access in its operation is its distance from the marker `start`. -/
inductive BusEvent where
  | start (op : BusOp)
  | read (addr : Word) (value : Byte)
  | write (addr : Word) (value : Byte)
  | rejectedRead (addr : Word) (info : BusInfo)
  | rejectedWrite (addr : Word) (value : Byte) (info : BusInfo)
  deriving DecidableEq, Repr

/-- The bus as the core meets it (R70 to R73). -/
structure Bus where
  /-- The plain memory: address and byte, in the canonical form `Memory.wf`. -/
  mem : List Host.Cell
  /-- The answers to the coming accesses, the next one first; when none is left the plain memory answers. -/
  replies : List BusReply
  /-- Every access made, newest first (log 6). -/
  history : List BusEvent
  deriving DecidableEq, Repr

/-- A fault record (R45, R410). -/
inductive FaultRecord where
  | illegalOpcode (op : Byte) (addr : Word)
  | busFault (addr : Word) (kind : AccessKind) (info : BusInfo)
  deriving DecidableEq, Repr

/-- `run_state` (R45). The record `fault` lives in `halted`: the spec has one exactly then (log 5). -/
inductive RunState where
  | notReset
  | running
  | halted (fault : FaultRecord)
  deriving DecidableEq, Repr

/-- The state of the core (R30, R45) with the bus it borrows (R70), the parameters (R9) and two fields of the model's own. -/
structure State where
  /-- Accumulator (R32). -/
  a : Byte
  /-- Index register X (R33). -/
  x : Byte
  /-- Index register Y (R34). -/
  y : Byte
  /-- Stack pointer (R36). -/
  sp : Byte
  /-- Program counter (R37). -/
  pc : Word
  /-- Status register (R38). Read through `State.status`, written through `State.setStatus`, which hold U at 1 (R43). -/
  p : Byte
  /-- `run_state` and `fault` (R45). -/
  runState : RunState
  /-- The IRQ level input (R402). -/
  irqLine : Bool
  /-- The NMI latch (R403). -/
  nmiPending : Bool
  /-- The bus, its memory and its history (R70 to R73). -/
  bus : Bus
  /-- The parameters (R9); no operation writes them. -/
  params : Params
  /-- The model's own: the count the last completed step returned, none where none was returned (R119, R450; log 7). -/
  lastCycles : Option Nat
  /-- The model's own: the number of the next free value (log 8). -/
  freeCount : Nat
  deriving DecidableEq, Repr

/-- Why a step ends with a fault (R16, R410). Each fault that changes the machine carries the state it leaves, so that the host
can go on from it with `reset()` (log 4). -/
inductive Fault where
  /-- Raised by the step that fetches one of the 105 illegal bytes and by every later step of the halted core (R408). Safe: the spec's own fault. -/
  | illegalOpcode (op : Byte) (addr : Word) (after : State)
  /-- Raised by the step or reset whose access the bus rejects and by every later step of the halted core (R407). Safe: the spec's own fault. -/
  | busFault (addr : Word) (kind : AccessKind) (info : BusInfo) (after : State)
  /-- Raised by a step before the first reset, which changes nothing (R409). Safe: the spec's own fault. -/
  | notReset
  deriving DecidableEq, Repr

/-- Why a step has no meaning. -/
inductive Refusal where
  /-- Raised by an arm of `exec` for an instruction without a meaning; no arm does. Safe: the machine stops. -/
  | notModelled (mnemonic : String)
  deriving DecidableEq, Repr

/-- The result of a step. -/
abbrev Outcome := Host.Outcome State Fault Refusal

/-- The core after `reset()` from creation, over a plain-memory bus that lists nothing (R49, R450): PC is the vector read there,
0x0000 (log 10); the history holds the two vector reads; `freeCount` is past the six creation values (log 9). -/
def State.reset : State where
  a := 0x00#8
  x := 0x00#8
  y := 0x00#8
  sp := 0xFF#8
  pc := 0x0000#16
  p := 0x24#8
  runState := .running
  irqLine := false
  nmiPending := false
  bus := ⟨[], [], [.read 0xFFFD#16 0x00#8, .read 0xFFFC#16 0x00#8, .start .reset]⟩
  params := Params.default
  lastCycles := none
  freeCount := 6

end Sys2Proof.Machine
end

