-- ==== Sys2Proof/Machine/Ops.lean ====
section
/-! DEFINITION. The named operations over words, memory, registers, the bus and the stack, interrupt entry and the return from it
(spec R11 to R14, R43, R70 to R81, R263, R264, R404). -/

namespace Sys2Proof.Machine

/-! ### Words and bytes (R10, R11) -/

/-- `sext_16(v)` of a byte (R11). -/
def signExtend16 (v : Byte) : Word := v.signExtend 16

/-- `zext_16(v)`: the address of a byte of the zero page (R19, R104). -/
def zeroPageAddr (v : Byte) : Word := mkWord 0x00#8 v

/-- `0x0100 | SP`: the stack location that SP designates (R14, R36). -/
def stackAddr (sp : Byte) : Word := mkWord 0x01#8 sp

/-- The address after `addr` inside the same page (R77, R110). -/
def nextInPage (addr : Word) : Word := mkWord (hiByte addr) (loByte addr + 1)

/-! ### Vectors (R74) -/

def nmiVector : Word := 0xFFFA#16
def resetVector : Word := 0xFFFC#16
def irqVector : Word := 0xFFFE#16

/-! ### The plain memory (R72, R73): addresses rising, no entry equal to what an unlisted address reads as -/

/-- The byte that an address which memory does not list reads as. DESIGN CHOICE (log 2), unsafe: the spec gives no power-on
contents; its test vectors take 0x00. -/
def Memory.unlisted : Byte := 0x00#8

/-- The byte stored at `addr`. -/
def Memory.read : List Host.Cell → Nat → Byte
  | [], _ => Memory.unlisted
  | (k, w) :: rest, addr => if k = addr then w else Memory.read rest addr

/-- Stores `v` at `addr`, keeping the canonical form. -/
def Memory.write : List Host.Cell → Nat → Byte → List Host.Cell
  | [], addr, v => if v = Memory.unlisted then [] else [(addr, v)]
  | (k, w) :: rest, addr, v =>
    if addr < k then if v = Memory.unlisted then (k, w) :: rest else (addr, v) :: (k, w) :: rest
    else if addr = k then if v = Memory.unlisted then rest else (addr, v) :: rest
    else (k, w) :: Memory.write rest addr v

/-- The canonical form: addresses below 65,536 and strictly rising, and no entry that says what an unlisted address says. -/
def Memory.wf : List Host.Cell → Bool
  | [] => true
  | (k, w) :: rest => decide (k < 65536) && decide (w ≠ Memory.unlisted) && rest.all (fun c => decide (k < c.1)) && Memory.wf rest

namespace State

/-- The byte the plain memory holds at `addr`. -/
def byteAt (addr : Word) (s : State) : Byte := Memory.read s.bus.mem addr.toNat

/-- The plain memory with `v` stored at `addr`. -/
def storeByte (addr : Word) (v : Byte) (s : State) : State :=
  { s with bus := { s.bus with mem := Memory.write s.bus.mem addr.toNat v } }

/-! ### Registers (R12): the one way to write each -/

def setA (v : Byte) (s : State) : State := { s with a := v }
def setX (v : Byte) (s : State) : State := { s with x := v }
def setY (v : Byte) (s : State) : State := { s with y := v }
def setSp (v : Byte) (s : State) : State := { s with sp := v }
def setPc (v : Word) (s : State) : State := { s with pc := v }

/-- P as every read sees it: U (bit 5) is 1 (R43). -/
def status (s : State) : Byte := s.p ||| 0x20#8

/-- A write of P: U is stored as 1 whatever `v` holds there (R43). -/
def setStatus (v : Byte) (s : State) : State := { s with p := v ||| 0x20#8 }

def setRunState (r : RunState) (s : State) : State := { s with runState := r }
def setIrqLine (level : Bool) (s : State) : State := { s with irqLine := level }
def setNmiPending (b : Bool) (s : State) : State := { s with nmiPending := b }
def setLastCycles (n : Option Nat) (s : State) : State := { s with lastCycles := n }

/-- Uses up `n` free values. -/
def useFree (n : Nat) (s : State) : State := { s with freeCount := s.freeCount + n }

/-! ### The bus (R13, R70 to R72, R79) -/

/-- The bus's answer to the coming access: the plain memory's where no answer is queued (R72). -/
def nextReply (s : State) : BusReply := s.bus.replies.headD .memory

/-- Records an access and uses up its answer (R72, R79). -/
def logAccess (e : BusEvent) (s : State) : State :=
  { s with bus := { s.bus with replies := s.bus.replies.tail, history := e :: s.bus.history } }

/-- Opens a section of the event history for the accesses of one operation (R72). -/
def beginOp (op : BusOp) (s : State) : State :=
  { s with bus := { s.bus with history := .start op :: s.bus.history } }

/-- The state a bus fault leaves in a step (R407): the accesses made stay made, A, X, Y, SP, PC and P are free values (P with U
at 1, R43), the core is halted with the record, no cycle count is returned (R120). -/
def haltUnspecified (r : FaultRecord) (s : State) : State :=
  ((((((((s.setA (Config.freeByte s.freeCount)).setX (Config.freeByte (s.freeCount + 1))).setY
    (Config.freeByte (s.freeCount + 2))).setSp (Config.freeByte (s.freeCount + 3))).setStatus
    (Config.freeByte (s.freeCount + 4))).setPc (Config.freeWord (s.freeCount + 5))).useFree 6).setRunState
    (.halted r)).setLastCycles none

/-- The state an illegal opcode at `addr` leaves (R408): PC at the opcode, no other register changed, the core halted with the
record, no cycle count returned (R120). -/
def haltIllegal (op : Byte) (addr : Word) (s : State) : State :=
  ((s.setPc addr).setRunState (.halted (.illegalOpcode op addr))).setLastCycles none

end State

/-- The result of part of a step: a value and the state so far, or the first access the bus rejected with the state then (R407). -/
inductive Res (α : Type) where
  | ok (v : α) (s : State)
  | busFault (addr : Word) (kind : AccessKind) (info : BusInfo) (s : State)

/-- Goes on unless an access was rejected: 'the step performs no further access' (R407). -/
def Res.bind {α β : Type} (r : Res α) (f : α → State → Res β) : Res β :=
  match r with
  | .ok v s => f v s
  | .busFault addr kind info s => .busFault addr kind info s

/-- A fault outcome from a record, with the state it leaves (R16, R408, R410). -/
def faultOf (r : FaultRecord) (after : State) : Fault :=
  match r with
  | .illegalOpcode op addr => .illegalOpcode op addr after
  | .busFault addr kind info => .busFault addr kind info after

/-- Ends a step: `Ok(cycles)` (R16, R119), or the bus fault (R407). -/
def Res.finish (r : Res Nat) : Outcome :=
  match r with
  | .ok cycles s => .next (s.setLastCycles (some cycles))
  | .busFault addr kind info s =>
    .fault (faultOf (.busFault addr kind info) (s.haltUnspecified (.busFault addr kind info)))

/-- `MemRead(addr, 1)`: exactly one bus read (R13). -/
def busRead (addr : Word) (s : State) : Res Byte :=
  match s.nextReply with
  | .memory => .ok (s.byteAt addr) (s.logAccess (.read addr (s.byteAt addr)))
  | .device v => .ok v (s.logAccess (.read addr v))
  | .reject info => .busFault addr .read info (s.logAccess (.rejectedRead addr info))

/-- `MemWrite(addr, 1, v)`: exactly one bus write (R13). -/
def busWrite (addr : Word) (v : Byte) (s : State) : Res Unit :=
  match s.nextReply with
  | .memory => .ok () ((s.logAccess (.write addr v)).storeByte addr v)
  | .device _ => .ok () (s.logAccess (.write addr v))
  | .reject info => .busFault addr .write info (s.logAccess (.rejectedWrite addr v info))

/-- `MemRead(addr, 2)`: low byte first, then the next address modulo 65536 (R13). -/
def busReadWord (addr : Word) (s : State) : Res Word :=
  (busRead addr s).bind fun lo s1 =>
  (busRead (addr + 1) s1).bind fun hi s2 => .ok (mkWord hi lo) s2

/-! ### The stack (R14) -/

/-- `Push(v)`: write, then decrement SP modulo 256. -/
def push (v : Byte) (s : State) : Res Unit :=
  (busWrite (stackAddr s.sp) v s).bind fun _ s1 => .ok () (s1.setSp (s1.sp - 1))

/-- `Pull()`: increment SP modulo 256, then read. -/
def pull (s : State) : Res Byte :=
  busRead (stackAddr (s.sp + 1)) (s.setSp (s.sp + 1))

/-! ### Taking an interrupt or BRK, and the return (R263, R264, R404) -/

/-- Bit 2 of P, the interrupt-disable flag, set: the one status change of an entry (R263, R404). -/
def statusWithI (v : Byte) : Byte := v ||| 0x04#8

/-- The entry that BRK, IRQ and NMI share (R263, R404): push PC high, PC low and the status byte `pushed`, set I, load PC from
`vector`. The PC pushed is the PC of `s`. -/
def takeException (pushed : Byte) (vector : Word) (s : State) : Res Unit :=
  (push (hiByte s.pc) s).bind fun _ s1 =>
  (push (loByte s.pc) s1).bind fun _ s2 =>
  (push pushed s2).bind fun _ s3 =>
  (busReadWord vector (s3.setStatus (statusWithI s3.status))).bind fun target s4 => .ok () (s4.setPc target)

/-- The status byte PHP and BRK push: B and U set whatever P.B holds (R241, R263). -/
def softwareStatus (v : Byte) : Byte := v ||| 0x30#8

/-- The status byte a hardware interrupt pushes: B clear, U set (R404). -/
def hardwareStatus (v : Byte) : Byte := (v &&& 0xEF#8) ||| 0x20#8

/-- P after a pull of the byte `v` over the status `old`: B kept, U set, the rest from `v` (R243, R264). -/
def pulledStatus (v old : Byte) : Byte := (v &&& 0xCF#8) ||| (old &&& 0x10#8) ||| 0x20#8

/-- The return from an interrupt or BRK (R264): pull the status, then PC low, then PC high. -/
def returnFromException (s : State) : Res Unit :=
  (pull s).bind fun v s1 =>
  (pull (s1.setStatus (pulledStatus v s1.status))).bind fun lo s2 =>
  (pull s2).bind fun hi s3 => .ok () (s3.setPc (mkWord hi lo))

/-- The hardware interrupts (R402, R403). -/
inductive InterruptKind where
  | nmi
  | irq
  deriving DecidableEq, Repr

def InterruptKind.vector : InterruptKind → Word
  | .nmi => nmiVector
  | .irq => irqVector

/-- `InterruptEntry(kind)` (R404): a whole step of 7 cycles (R406); taking an NMI clears its latch first. -/
def interruptEntry (kind : InterruptKind) (s : State) : Outcome :=
  match kind with
  | .nmi =>
    ((takeException (hardwareStatus s.status) InterruptKind.nmi.vector (s.setNmiPending false)).bind fun _ s1 => .ok 7 s1).finish
  | .irq => ((takeException (hardwareStatus s.status) InterruptKind.irq.vector s).bind fun _ s1 => .ok 7 s1).finish

end Sys2Proof.Machine
end

