-- ==== Sys2Proof/Machine/Flags.lean ====
section
/-! DEFINITION. The flags of P and every flag computation the spec gives (R15, R38 to R43, R150 to R154, R175 to R178, R200). -/

namespace Sys2Proof.Machine

/-- The flags of P by name (R38). -/
inductive Flag where
  | c | z | i | d | b | u | v | n
  deriving DecidableEq, Repr

/-- The bit of P that holds each flag (R38). -/
def Flag.bit : Flag → Nat
  | .c => 0
  | .z => 1
  | .i => 2
  | .d => 3
  | .b => 4
  | .u => 5
  | .v => 6
  | .n => 7

/-- The status byte with one flag changed. -/
def writeFlag (f : Flag) (on : Bool) (p : Byte) : Byte :=
  if on then p ||| BitVec.twoPow 8 f.bit else p &&& ~~~ BitVec.twoPow 8 f.bit

namespace State

/-- A flag as read (R12); U reads 1 (R43). -/
def flag (f : Flag) (s : State) : Bool := s.status.getLsbD f.bit

/-- A write of one flag (R12); a write of U leaves it 1 (R43). -/
def setFlag (f : Flag) (on : Bool) (s : State) : State := s.setStatus (writeFlag f on s.status)

/-- `SetNZ(v)` (R15). -/
def setNZ (v : Byte) (s : State) : State := (s.setFlag .z (v == 0)).setFlag .n v.msb

end State

/-- The carry as a number. -/
def carryNat (c : Bool) : Nat := if c then 1 else 0

/-- A result of ADC or SBC with the flags it writes. -/
structure AluResult where
  value : Byte
  c : Bool
  z : Bool
  v : Bool
  n : Bool
  deriving DecidableEq, Repr

/-- ADC in binary mode (R150): the nine-bit sum, its carry, and the signed overflow. -/
def addBinary (a m : Byte) (c : Bool) : AluResult :=
  let s := a.toNat + m.toNat + carryNat c
  let r := BitVec.ofNat 8 s
  { value := r, c := decide (s > 0xFF), z := r == 0, v := ((~~~(a ^^^ m)) &&& (a ^^^ r)).msb, n := r.msb }

/-- The low digit of a decimal addition with its carry into the high digit (R151, `al`). -/
def addLowDigit (a m : Byte) (c : Bool) : Nat :=
  let al := (a &&& 0x0F#8).toNat + (m &&& 0x0F#8).toNat + carryNat c
  if al ≥ 0x0A then (al + 0x06) % 0x10 + 0x10 else al

/-- ADC in decimal mode, `nmos` (R151): Z from the binary sum, N and V from the sum before the high digit's correction. -/
def addDecimal (a m : Byte) (c : Bool) : AluResult :=
  let al := addLowDigit a m c
  let s := (a &&& 0xF0#8).toNat + (m &&& 0xF0#8).toNat + al
  let s := if s ≥ 0xA0 then s + 0x60 else s
  let t : Int := (a &&& 0xF0#8).toInt + (m &&& 0xF0#8).toInt + al
  { value := BitVec.ofNat 8 s
    c := decide (s ≥ 0x100)
    z := BitVec.ofNat 8 (a.toNat + m.toNat + carryNat c) == 0
    v := decide (t < -128) || decide (t > 127)
    n := (BitVec.ofInt 8 t).msb }

/-- SBC in binary mode (R152): the sum with the complement; C set means no borrow. -/
def subBinary (a m : Byte) (c : Bool) : AluResult :=
  let s := a.toNat + (m ^^^ 0xFF#8).toNat + carryNat c
  let r := BitVec.ofNat 8 s
  { value := r, c := decide (s > 0xFF), z := r == 0, v := ((a ^^^ m) &&& (a ^^^ r)).msb, n := r.msb }

/-- The low digit of a decimal subtraction with its borrow from the high digit (R153, `al`). -/
def subLowDigit (a m : Byte) (c : Bool) : Int :=
  let al : Int := (a &&& 0x0F#8).toNat - (m &&& 0x0F#8).toNat + carryNat c - 1
  if al < 0 then (al - 0x06) % 0x10 - 0x10 else al

/-- The value SBC writes to A in decimal mode, `nmos` (R153). -/
def subDecimalValue (a m : Byte) (c : Bool) : Byte :=
  let s : Int := (a &&& 0xF0#8).toNat - (m &&& 0xF0#8).toNat + subLowDigit a m c
  let s := if s < 0 then s - 0x60 else s
  BitVec.ofInt 8 s

/-- SBC in decimal mode, `nmos` (R153): the flags of the binary subtraction, the value of the decimal one. -/
def subDecimal (a m : Byte) (c : Bool) : AluResult :=
  { subBinary a m c with value := subDecimalValue a m c }

/-- Valid packed BCD: each nibble 0 to 9 (R154). -/
def isBcd (v : Byte) : Bool := decide ((v &&& 0x0F#8).toNat ≤ 9) && decide (v.toNat / 16 ≤ 9)

/-- A decimal result under `valid_bcd_only` (R154), from the result `r` of the NMOS algorithm and two free bytes: N, V and Z are
draws, and so are A and C where an operand is not BCD. Which bit of `flags` stands for which flag is of no account (log 14). -/
def drawnResult (a m : Byte) (r : AluResult) (value flags : Byte) : AluResult :=
  { value := if isBcd a && isBcd m then r.value else value
    c := if isBcd a && isBcd m then r.c else flags.getLsbD 0
    z := flags.getLsbD 1
    v := flags.getLsbD 6
    n := flags.getLsbD 7 }

namespace State

/-- ADC and SBC write A and the flags C, V, Z, N (R150, R152). -/
def setAluResult (r : AluResult) (s : State) : State :=
  ((((s.setFlag .c r.c).setFlag .v r.v).setA r.value).setFlag .z r.z).setFlag .n r.n

/-- A decimal result `r` as `DECIMAL_MODEL` has it (R151, R153, R154). -/
def setDecimalResult (m : Byte) (r : AluResult) (s : State) : State :=
  match s.params.decimalModel with
  | .nmos => s.setAluResult r
  | .validBcdOnly =>
    (s.setAluResult (drawnResult s.a m r (Config.freeByte s.freeCount) (Config.freeByte (s.freeCount + 1)))).useFree 2

/-- `Compare(R, M)` (R200). -/
def compare (r m : Byte) (s : State) : State := (s.setFlag .c (decide (m.toNat ≤ r.toNat))).setNZ (r - m)

end State

/-! ### Shifts and rotates: the result and the bit shifted out (R175 to R178) -/

def aslValue (v : Byte) (_c : Bool) : Byte := v <<< 1
def lsrValue (v : Byte) (_c : Bool) : Byte := v >>> 1
def rolValue (v : Byte) (c : Bool) : Byte := (v <<< 1) ||| (if c then 0x01#8 else 0x00#8)
def rorValue (v : Byte) (c : Bool) : Byte := (v >>> 1) ||| (if c then 0x80#8 else 0x00#8)

/-- The carry of a left shift or rotate: the old bit 7 (R175, R177). -/
def carryLeft (v : Byte) : Bool := v.msb

/-- The carry of a right shift or rotate: the old bit 0 (R176, R178). -/
def carryRight (v : Byte) : Bool := v.getLsbD 0

end Sys2Proof.Machine
end

