-- ==== Sys2Proof/Machine/Operands.lean ====
section
/-! DEFINITION. The addressing resolver and the operand forms (spec R17, R101 to R113, R120). The operand bytes have been fetched when a
meaning runs, and PC is the address after them (R37, R111; log 12). -/

namespace Sys2Proof.Machine

/-- What the resolver answers (R111): the effective address and `page_cross`. -/
structure Resolved where
  ea : Word
  pageCross : Bool
  deriving DecidableEq, Repr

/-- An address indexed by X or Y, with `page_cross` where the high byte changes (R107, R109). -/
def indexed (base : Word) (index : Byte) : Resolved :=
  let ea := base + zeroPageAddr index
  { ea := ea, pageCross := decide (hiByte ea ≠ hiByte base) }

/-- A 16-bit pointer in the zero page at `z`: the high byte at `z + 1` inside page 0 (R77, R108, R109). -/
def readZeroPagePointer (z : Byte) (s : State) : Res Word :=
  (busRead (zeroPageAddr z) s).bind fun lo s1 =>
  (busRead (zeroPageAddr (z + 1)) s1).bind fun hi s2 => .ok (mkWord hi lo) s2

/-- `resolve(mode)` for the memory modes (R104 to R109, R111). -/
def resolve (m : MemMode) (s : State) : Res Resolved :=
  match m with
  | .zp zz => .ok ⟨zeroPageAddr zz, false⟩ s
  | .zpx zz => .ok ⟨zeroPageAddr (zz + s.x), false⟩ s
  | .zpy zz => .ok ⟨zeroPageAddr (zz + s.y), false⟩ s
  | .abs addr => .ok ⟨addr, false⟩ s
  | .abx addr => .ok (indexed addr s.x) s
  | .aby addr => .ok (indexed addr s.y) s
  | .izx zz => (readZeroPagePointer (zz + s.x) s).bind fun p s1 => .ok ⟨p, false⟩ s1
  | .izy zz => (readZeroPagePointer zz s).bind fun p s1 => .ok (indexed p s1.y) s1

/-- The target of JMP indirect: the high byte from the start of the same page where the pointer ends a page (R110). -/
def resolveIndirect (ptr : Word) (s : State) : Res Word :=
  (busRead ptr s).bind fun lo s1 =>
  (busRead (nextInPage ptr) s1).bind fun hi s2 => .ok (mkWord hi lo) s2

/-- The operand byte `M` of a read instruction with `page_cross` (R17, R103, R113). -/
def readSource (src : Source) (s : State) : Res (Byte × Bool) :=
  match src with
  | .imm nn => .ok (nn, false) s
  | .mem m => (resolve m s).bind fun r s1 => (busRead r.ea s1).bind fun v s2 => .ok (v, r.pageCross) s2

/-- How a store's count depends on the page crossing (R115, R120). -/
inductive StorePenalty where
  /-- `-`: the base count. -/
  | fixed
  /-- `st`: by `STORE_PAGE_PENALTY`. -/
  | indexed
  deriving DecidableEq, Repr

/-- `page_cross` as a number of cycles. -/
def crossCycles (cross : Bool) : Nat := if cross then 1 else 0

/-- The cycle count of a store (R120). -/
def storeCycles (base : Nat) (penalty : StorePenalty) (p : Params) (cross : Bool) : Nat :=
  match penalty, p.storePagePenalty with
  | .fixed, _ => base
  | .indexed, .always => base
  | .indexed, .onCross => base - 1 + crossCycles cross

/-! ### The forms of instructions (R113, R170) -/

/-- The read class: one read of the operand, then the handler's effect of `M`; the page penalty counts (R113, R120). -/
def readForm (base : Nat) (effect : Byte → State → State) (src : Source) (s : State) : Outcome :=
  ((readSource src s).bind fun m s1 => .ok (base + crossCycles m.2) (effect m.1 s1)).finish

/-- The write class: one write of a register to EA, no read of it, no flag (R113, R323 to R325). -/
def storeForm (base : Nat) (penalty : StorePenalty) (value : State → Byte) (m : MemMode) (s : State) : Outcome :=
  ((resolve m s).bind fun r s1 =>
    (busWrite r.ea (value s1) s1).bind fun _ s2 => .ok (storeCycles base penalty s2.params r.pageCross) s2).finish

/-- The read-modify-write class in a memory mode: one read and one write of EA, then the flags; the count is fixed (R170, R120).
`result` takes the old byte and C; `flags` takes the old byte and the result. -/
def modifyMemory (base : Nat) (result : Byte → Bool → Byte) (flags : Byte → Byte → State → State) (m : MemMode) (s : State) : Outcome :=
  ((resolve m s).bind fun r s1 =>
    (busRead r.ea s1).bind fun v s2 =>
    (busWrite r.ea (result v (s2.flag .c)) s2).bind fun _ s3 => .ok base (flags v (result v (s2.flag .c)) s3)).finish

/-- The read-modify-write class in Accumulator mode: no access (R102, R170). -/
def modifyAccumulator (base : Nat) (result : Byte → Bool → Byte) (flags : Byte → Byte → State → State) (s : State) : Outcome :=
  (Res.ok base (flags s.a (result s.a (s.flag .c)) (s.setA (result s.a (s.flag .c))))).finish

/-- An implied instruction that makes no access after the opcode fetch (R113): 2 cycles (R115). -/
def impliedForm (effect : State → State) (s : State) : Outcome :=
  (Res.ok 2 (effect s)).finish

end Sys2Proof.Machine
end

