-- ==== Sys2Proof/Machine/Arithmetic.lean ====
section
/-! DEFINITION. ADC and SBC (spec R150 to R154). -/

namespace Sys2Proof.Machine

/-- The effect of ADC on A and the flags, given M (R150, R151, R154). -/
def adcEffect (m : Byte) (s : State) : State :=
  if s.flag .d then s.setDecimalResult m (addDecimal s.a m (s.flag .c)) else s.setAluResult (addBinary s.a m (s.flag .c))

/-- The effect of SBC on A and the flags, given M (R152, R153, R154). -/
def sbcEffect (m : Byte) (s : State) : State :=
  if s.flag .d then s.setDecimalResult m (subDecimal s.a m (s.flag .c)) else s.setAluResult (subBinary s.a m (s.flag .c))

/-! ### The meanings, one for each opcode (R115) -/

/-- 0x69, ADC immediate (R150). -/
def execAdcImm (nn : Byte) (s : State) : Outcome :=
  readForm 2 adcEffect (.imm nn) s

/-- 0x65, ADC zero page (R150). -/
def execAdcZp (zz : Byte) (s : State) : Outcome :=
  readForm 3 adcEffect (.mem (.zp zz)) s

/-- 0x75, ADC zero page + X (R150). -/
def execAdcZpx (zz : Byte) (s : State) : Outcome :=
  readForm 4 adcEffect (.mem (.zpx zz)) s

/-- 0x6D, ADC absolute (R150). -/
def execAdcAbs (addr : Word) (s : State) : Outcome :=
  readForm 4 adcEffect (.mem (.abs addr)) s

/-- 0x7D, ADC absolute + X (R150). -/
def execAdcAbx (addr : Word) (s : State) : Outcome :=
  readForm 4 adcEffect (.mem (.abx addr)) s

/-- 0x79, ADC absolute + Y (R150). -/
def execAdcAby (addr : Word) (s : State) : Outcome :=
  readForm 4 adcEffect (.mem (.aby addr)) s

/-- 0x61, ADC (zp,X) (R150). -/
def execAdcIzx (zz : Byte) (s : State) : Outcome :=
  readForm 6 adcEffect (.mem (.izx zz)) s

/-- 0x71, ADC (zp),Y (R150). -/
def execAdcIzy (zz : Byte) (s : State) : Outcome :=
  readForm 5 adcEffect (.mem (.izy zz)) s

/-- 0xE9, SBC immediate (R152). -/
def execSbcImm (nn : Byte) (s : State) : Outcome :=
  readForm 2 sbcEffect (.imm nn) s

/-- 0xE5, SBC zero page (R152). -/
def execSbcZp (zz : Byte) (s : State) : Outcome :=
  readForm 3 sbcEffect (.mem (.zp zz)) s

/-- 0xF5, SBC zero page + X (R152). -/
def execSbcZpx (zz : Byte) (s : State) : Outcome :=
  readForm 4 sbcEffect (.mem (.zpx zz)) s

/-- 0xED, SBC absolute (R152). -/
def execSbcAbs (addr : Word) (s : State) : Outcome :=
  readForm 4 sbcEffect (.mem (.abs addr)) s

/-- 0xFD, SBC absolute + X (R152). -/
def execSbcAbx (addr : Word) (s : State) : Outcome :=
  readForm 4 sbcEffect (.mem (.abx addr)) s

/-- 0xF9, SBC absolute + Y (R152). -/
def execSbcAby (addr : Word) (s : State) : Outcome :=
  readForm 4 sbcEffect (.mem (.aby addr)) s

/-- 0xE1, SBC (zp,X) (R152). -/
def execSbcIzx (zz : Byte) (s : State) : Outcome :=
  readForm 6 sbcEffect (.mem (.izx zz)) s

/-- 0xF1, SBC (zp),Y (R152). -/
def execSbcIzy (zz : Byte) (s : State) : Outcome :=
  readForm 5 sbcEffect (.mem (.izy zz)) s

end Sys2Proof.Machine
end

