-- ==== Sys2Proof/Machine/Branch.lean ====
section
/-! DEFINITION. The conditional branches (spec R112, R220 to R228). -/

namespace Sys2Proof.Machine

/-- The target of a branch from the PC of the next instruction (R112, R220). -/
def branchTarget (pcNext : Word) (oo : Byte) : Word := pcNext + signExtend16 oo

/-- `Branch(cond)` (R220): 2 cycles not taken, 3 taken inside the page of the next instruction, 4 taken to another page. -/
def branchForm (cond : Bool) (oo : Byte) (s : State) : Outcome :=
  (if cond then
    Res.ok (2 + 1 + crossCycles (decide (hiByte (branchTarget s.pc oo) ≠ hiByte s.pc))) (s.setPc (branchTarget s.pc oo))
  else Res.ok 2 s).finish

/-! ### The meanings, one for each opcode (R115) -/

/-- 0x90, BCC relative (R221). -/
def execBcc (oo : Byte) (s : State) : Outcome :=
  branchForm (!(s.flag .c)) oo s

/-- 0xB0, BCS relative (R222). -/
def execBcs (oo : Byte) (s : State) : Outcome :=
  branchForm (s.flag .c) oo s

/-- 0xF0, BEQ relative (R223). -/
def execBeq (oo : Byte) (s : State) : Outcome :=
  branchForm (s.flag .z) oo s

/-- 0xD0, BNE relative (R224). -/
def execBne (oo : Byte) (s : State) : Outcome :=
  branchForm (!(s.flag .z)) oo s

/-- 0x30, BMI relative (R225). -/
def execBmi (oo : Byte) (s : State) : Outcome :=
  branchForm (s.flag .n) oo s

/-- 0x10, BPL relative (R226). -/
def execBpl (oo : Byte) (s : State) : Outcome :=
  branchForm (!(s.flag .n)) oo s

/-- 0x50, BVC relative (R227). -/
def execBvc (oo : Byte) (s : State) : Outcome :=
  branchForm (!(s.flag .v)) oo s

/-- 0x70, BVS relative (R228). -/
def execBvs (oo : Byte) (s : State) : Outcome :=
  branchForm (s.flag .v) oo s

end Sys2Proof.Machine
end

