-- ==== Sys2Proof/Machine/Compare.lean ====
section
/-! DEFINITION. CMP, CPX, CPY (spec R200 to R203). -/

namespace Sys2Proof.Machine

/-- R201. -/
def cmpEffect (m : Byte) (s : State) : State := s.compare s.a m

/-- R202. -/
def cpxEffect (m : Byte) (s : State) : State := s.compare s.x m

/-- R203. -/
def cpyEffect (m : Byte) (s : State) : State := s.compare s.y m

/-! ### The meanings, one for each opcode (R115) -/

/-- 0xC9, CMP immediate (R201). -/
def execCmpImm (nn : Byte) (s : State) : Outcome :=
  readForm 2 cmpEffect (.imm nn) s

/-- 0xC5, CMP zero page (R201). -/
def execCmpZp (zz : Byte) (s : State) : Outcome :=
  readForm 3 cmpEffect (.mem (.zp zz)) s

/-- 0xD5, CMP zero page + X (R201). -/
def execCmpZpx (zz : Byte) (s : State) : Outcome :=
  readForm 4 cmpEffect (.mem (.zpx zz)) s

/-- 0xCD, CMP absolute (R201). -/
def execCmpAbs (addr : Word) (s : State) : Outcome :=
  readForm 4 cmpEffect (.mem (.abs addr)) s

/-- 0xDD, CMP absolute + X (R201). -/
def execCmpAbx (addr : Word) (s : State) : Outcome :=
  readForm 4 cmpEffect (.mem (.abx addr)) s

/-- 0xD9, CMP absolute + Y (R201). -/
def execCmpAby (addr : Word) (s : State) : Outcome :=
  readForm 4 cmpEffect (.mem (.aby addr)) s

/-- 0xC1, CMP (zp,X) (R201). -/
def execCmpIzx (zz : Byte) (s : State) : Outcome :=
  readForm 6 cmpEffect (.mem (.izx zz)) s

/-- 0xD1, CMP (zp),Y (R201). -/
def execCmpIzy (zz : Byte) (s : State) : Outcome :=
  readForm 5 cmpEffect (.mem (.izy zz)) s

/-- 0xE0, CPX immediate (R202). -/
def execCpxImm (nn : Byte) (s : State) : Outcome :=
  readForm 2 cpxEffect (.imm nn) s

/-- 0xE4, CPX zero page (R202). -/
def execCpxZp (zz : Byte) (s : State) : Outcome :=
  readForm 3 cpxEffect (.mem (.zp zz)) s

/-- 0xEC, CPX absolute (R202). -/
def execCpxAbs (addr : Word) (s : State) : Outcome :=
  readForm 4 cpxEffect (.mem (.abs addr)) s

/-- 0xC0, CPY immediate (R203). -/
def execCpyImm (nn : Byte) (s : State) : Outcome :=
  readForm 2 cpyEffect (.imm nn) s

/-- 0xC4, CPY zero page (R203). -/
def execCpyZp (zz : Byte) (s : State) : Outcome :=
  readForm 3 cpyEffect (.mem (.zp zz)) s

/-- 0xCC, CPY absolute (R203). -/
def execCpyAbs (addr : Word) (s : State) : Outcome :=
  readForm 4 cpyEffect (.mem (.abs addr)) s

end Sys2Proof.Machine
end

