-- ==== Sys2Proof/Machine/Control.lean ====
section
/-! DEFINITION. JMP, JSR, RTS, BRK, RTI and the illegal opcodes (spec R260 to R264, R408). -/

namespace Sys2Proof.Machine

/-! ### The meanings, one for each opcode (R115) -/

/-- 0x4C, JMP absolute (R260). -/
def execJmpAbs (addr : Word) (s : State) : Outcome :=
  (Res.ok 3 (s.setPc addr)).finish

/-- 0x6C, JMP indirect (R260). -/
def execJmpInd (ptr : Word) (s : State) : Outcome :=
  ((resolveIndirect ptr s).bind fun target s1 => .ok 5 (s1.setPc target)).finish

/-- 0x20, JSR absolute (R261). Both operand bytes are read before the pushes (D25); the pushed word is the address of the last of them. -/
def execJsr (addr : Word) (s : State) : Outcome :=
  ((push (hiByte (s.pc - 1)) s).bind fun _ s1 =>
    (push (loByte (s.pc - 1)) s1).bind fun _ s2 => .ok 6 (s2.setPc addr)).finish

/-- 0x60, RTS implied (R262). -/
def execRts (s : State) : Outcome :=
  ((pull s).bind fun lo s1 => (pull s1).bind fun hi s2 => .ok 6 (s2.setPc (mkWord hi lo + 1))).finish

/-- 0x00, BRK implied (R263). The padding byte is skipped and not read; BRK is not masked by I. -/
def execBrk (s : State) : Outcome :=
  ((takeException (softwareStatus s.status) irqVector (s.setPc (s.pc + 1))).bind fun _ s1 => .ok 7 s1).finish

/-- 0x40, RTI implied (R264). -/
def execRti (s : State) : Outcome :=
  ((returnFromException s).bind fun _ s1 => .ok 6 s1).finish

/-- The 105 illegal opcodes (R117, R408): the fault `IllegalOpcode(op, p)` with PC back at the opcode `p` and the core halted. -/
def execIllegal (op : Byte) (s : State) : Outcome :=
  .fault (faultOf (.illegalOpcode op (s.pc - 1)) (s.haltIllegal op (s.pc - 1)))

end Sys2Proof.Machine
end

