-- ==== Sys2Proof/Machine/FlagsNop.lean ====
section
/-! DEFINITION. The flag instructions and NOP (spec R340 to R347). -/

namespace Sys2Proof.Machine

/-! ### The meanings, one for each opcode (R115) -/

/-- 0x18, CLC implied (R340). -/
def execClc (s : State) : Outcome :=
  impliedForm (fun s => s.setFlag .c false) s

/-- 0xD8, CLD implied (R341). -/
def execCld (s : State) : Outcome :=
  impliedForm (fun s => s.setFlag .d false) s

/-- 0x58, CLI implied (R342). -/
def execCli (s : State) : Outcome :=
  impliedForm (fun s => s.setFlag .i false) s

/-- 0xB8, CLV implied (R343). -/
def execClv (s : State) : Outcome :=
  impliedForm (fun s => s.setFlag .v false) s

/-- 0x38, SEC implied (R344). -/
def execSec (s : State) : Outcome :=
  impliedForm (fun s => s.setFlag .c true) s

/-- 0xF8, SED implied (R345). -/
def execSed (s : State) : Outcome :=
  impliedForm (fun s => s.setFlag .d true) s

/-- 0x78, SEI implied (R346). -/
def execSei (s : State) : Outcome :=
  impliedForm (fun s => s.setFlag .i true) s

/-- 0xEA, NOP implied (R347). -/
def execNop (s : State) : Outcome :=
  impliedForm (fun s => s) s

end Sys2Proof.Machine
end

