-- ==== Sys2Proof/Machine/LoadStore.lean ====
section
/-! DEFINITION. LDA, LDX, LDY, STA, STX, STY (spec R320 to R325). -/

namespace Sys2Proof.Machine

/-- R320. -/
def ldaEffect (m : Byte) (s : State) : State := (s.setA m).setNZ m

/-- R321. -/
def ldxEffect (m : Byte) (s : State) : State := (s.setX m).setNZ m

/-- R322. -/
def ldyEffect (m : Byte) (s : State) : State := (s.setY m).setNZ m

/-! ### The meanings, one for each opcode (R115) -/

/-- 0xA9, LDA immediate (R320). -/
def execLdaImm (nn : Byte) (s : State) : Outcome :=
  readForm 2 ldaEffect (.imm nn) s

/-- 0xA5, LDA zero page (R320). -/
def execLdaZp (zz : Byte) (s : State) : Outcome :=
  readForm 3 ldaEffect (.mem (.zp zz)) s

/-- 0xB5, LDA zero page + X (R320). -/
def execLdaZpx (zz : Byte) (s : State) : Outcome :=
  readForm 4 ldaEffect (.mem (.zpx zz)) s

/-- 0xAD, LDA absolute (R320). -/
def execLdaAbs (addr : Word) (s : State) : Outcome :=
  readForm 4 ldaEffect (.mem (.abs addr)) s

/-- 0xBD, LDA absolute + X (R320). -/
def execLdaAbx (addr : Word) (s : State) : Outcome :=
  readForm 4 ldaEffect (.mem (.abx addr)) s

/-- 0xB9, LDA absolute + Y (R320). -/
def execLdaAby (addr : Word) (s : State) : Outcome :=
  readForm 4 ldaEffect (.mem (.aby addr)) s

/-- 0xA1, LDA (zp,X) (R320). -/
def execLdaIzx (zz : Byte) (s : State) : Outcome :=
  readForm 6 ldaEffect (.mem (.izx zz)) s

/-- 0xB1, LDA (zp),Y (R320). -/
def execLdaIzy (zz : Byte) (s : State) : Outcome :=
  readForm 5 ldaEffect (.mem (.izy zz)) s

/-- 0xA2, LDX immediate (R321). -/
def execLdxImm (nn : Byte) (s : State) : Outcome :=
  readForm 2 ldxEffect (.imm nn) s

/-- 0xA6, LDX zero page (R321). -/
def execLdxZp (zz : Byte) (s : State) : Outcome :=
  readForm 3 ldxEffect (.mem (.zp zz)) s

/-- 0xB6, LDX zero page + Y (R321). -/
def execLdxZpy (zz : Byte) (s : State) : Outcome :=
  readForm 4 ldxEffect (.mem (.zpy zz)) s

/-- 0xAE, LDX absolute (R321). -/
def execLdxAbs (addr : Word) (s : State) : Outcome :=
  readForm 4 ldxEffect (.mem (.abs addr)) s

/-- 0xBE, LDX absolute + Y (R321). -/
def execLdxAby (addr : Word) (s : State) : Outcome :=
  readForm 4 ldxEffect (.mem (.aby addr)) s

/-- 0xA0, LDY immediate (R322). -/
def execLdyImm (nn : Byte) (s : State) : Outcome :=
  readForm 2 ldyEffect (.imm nn) s

/-- 0xA4, LDY zero page (R322). -/
def execLdyZp (zz : Byte) (s : State) : Outcome :=
  readForm 3 ldyEffect (.mem (.zp zz)) s

/-- 0xB4, LDY zero page + X (R322). -/
def execLdyZpx (zz : Byte) (s : State) : Outcome :=
  readForm 4 ldyEffect (.mem (.zpx zz)) s

/-- 0xAC, LDY absolute (R322). -/
def execLdyAbs (addr : Word) (s : State) : Outcome :=
  readForm 4 ldyEffect (.mem (.abs addr)) s

/-- 0xBC, LDY absolute + X (R322). -/
def execLdyAbx (addr : Word) (s : State) : Outcome :=
  readForm 4 ldyEffect (.mem (.abx addr)) s

/-- 0x85, STA zero page (R323). -/
def execStaZp (zz : Byte) (s : State) : Outcome :=
  storeForm 3 .fixed State.a (.zp zz) s

/-- 0x95, STA zero page + X (R323). -/
def execStaZpx (zz : Byte) (s : State) : Outcome :=
  storeForm 4 .fixed State.a (.zpx zz) s

/-- 0x8D, STA absolute (R323). -/
def execStaAbs (addr : Word) (s : State) : Outcome :=
  storeForm 4 .fixed State.a (.abs addr) s

/-- 0x9D, STA absolute + X (R323). -/
def execStaAbx (addr : Word) (s : State) : Outcome :=
  storeForm 5 .indexed State.a (.abx addr) s

/-- 0x99, STA absolute + Y (R323). -/
def execStaAby (addr : Word) (s : State) : Outcome :=
  storeForm 5 .indexed State.a (.aby addr) s

/-- 0x81, STA (zp,X) (R323). -/
def execStaIzx (zz : Byte) (s : State) : Outcome :=
  storeForm 6 .fixed State.a (.izx zz) s

/-- 0x91, STA (zp),Y (R323). -/
def execStaIzy (zz : Byte) (s : State) : Outcome :=
  storeForm 6 .indexed State.a (.izy zz) s

/-- 0x86, STX zero page (R324). -/
def execStxZp (zz : Byte) (s : State) : Outcome :=
  storeForm 3 .fixed State.x (.zp zz) s

/-- 0x96, STX zero page + Y (R324). -/
def execStxZpy (zz : Byte) (s : State) : Outcome :=
  storeForm 4 .fixed State.x (.zpy zz) s

/-- 0x8E, STX absolute (R324). -/
def execStxAbs (addr : Word) (s : State) : Outcome :=
  storeForm 4 .fixed State.x (.abs addr) s

/-- 0x84, STY zero page (R325). -/
def execStyZp (zz : Byte) (s : State) : Outcome :=
  storeForm 3 .fixed State.y (.zp zz) s

/-- 0x94, STY zero page + X (R325). -/
def execStyZpx (zz : Byte) (s : State) : Outcome :=
  storeForm 4 .fixed State.y (.zpx zz) s

/-- 0x8C, STY absolute (R325). -/
def execStyAbs (addr : Word) (s : State) : Outcome :=
  storeForm 4 .fixed State.y (.abs addr) s

end Sys2Proof.Machine
end

