-- ==== Sys2Proof/Machine/LogicShift.lean ====
section
/-! DEFINITION. AND, ORA, EOR, BIT, ASL, LSR, ROL, ROR (spec R170 to R178). -/

namespace Sys2Proof.Machine

/-- R171. -/
def andEffect (m : Byte) (s : State) : State := (s.setA (s.a &&& m)).setNZ (s.a &&& m)

/-- R172. -/
def oraEffect (m : Byte) (s : State) : State := (s.setA (s.a ||| m)).setNZ (s.a ||| m)

/-- R173. -/
def eorEffect (m : Byte) (s : State) : State := (s.setA (s.a ^^^ m)).setNZ (s.a ^^^ m)

/-- R174: Z from `A & M`, N and V from M; A is not written. -/
def bitEffect (m : Byte) (s : State) : State :=
  ((s.setFlag .z ((s.a &&& m) == 0)).setFlag .n m.msb).setFlag .v (m.getLsbD 6)

/-- The flags of ASL and ROL: C the old bit 7, Z and N of the result (R175, R177). -/
def leftFlags (v r : Byte) (s : State) : State := (s.setFlag .c (carryLeft v)).setNZ r

/-- The flags of LSR and ROR: C the old bit 0, Z and N of the result (R176, R178). -/
def rightFlags (v r : Byte) (s : State) : State := (s.setFlag .c (carryRight v)).setNZ r

/-! ### The meanings, one for each opcode (R115) -/

/-- 0x29, AND immediate (R171). -/
def execAndImm (nn : Byte) (s : State) : Outcome :=
  readForm 2 andEffect (.imm nn) s

/-- 0x25, AND zero page (R171). -/
def execAndZp (zz : Byte) (s : State) : Outcome :=
  readForm 3 andEffect (.mem (.zp zz)) s

/-- 0x35, AND zero page + X (R171). -/
def execAndZpx (zz : Byte) (s : State) : Outcome :=
  readForm 4 andEffect (.mem (.zpx zz)) s

/-- 0x2D, AND absolute (R171). -/
def execAndAbs (addr : Word) (s : State) : Outcome :=
  readForm 4 andEffect (.mem (.abs addr)) s

/-- 0x3D, AND absolute + X (R171). -/
def execAndAbx (addr : Word) (s : State) : Outcome :=
  readForm 4 andEffect (.mem (.abx addr)) s

/-- 0x39, AND absolute + Y (R171). -/
def execAndAby (addr : Word) (s : State) : Outcome :=
  readForm 4 andEffect (.mem (.aby addr)) s

/-- 0x21, AND (zp,X) (R171). -/
def execAndIzx (zz : Byte) (s : State) : Outcome :=
  readForm 6 andEffect (.mem (.izx zz)) s

/-- 0x31, AND (zp),Y (R171). -/
def execAndIzy (zz : Byte) (s : State) : Outcome :=
  readForm 5 andEffect (.mem (.izy zz)) s

/-- 0x09, ORA immediate (R172). -/
def execOraImm (nn : Byte) (s : State) : Outcome :=
  readForm 2 oraEffect (.imm nn) s

/-- 0x05, ORA zero page (R172). -/
def execOraZp (zz : Byte) (s : State) : Outcome :=
  readForm 3 oraEffect (.mem (.zp zz)) s

/-- 0x15, ORA zero page + X (R172). -/
def execOraZpx (zz : Byte) (s : State) : Outcome :=
  readForm 4 oraEffect (.mem (.zpx zz)) s

/-- 0x0D, ORA absolute (R172). -/
def execOraAbs (addr : Word) (s : State) : Outcome :=
  readForm 4 oraEffect (.mem (.abs addr)) s

/-- 0x1D, ORA absolute + X (R172). -/
def execOraAbx (addr : Word) (s : State) : Outcome :=
  readForm 4 oraEffect (.mem (.abx addr)) s

/-- 0x19, ORA absolute + Y (R172). -/
def execOraAby (addr : Word) (s : State) : Outcome :=
  readForm 4 oraEffect (.mem (.aby addr)) s

/-- 0x01, ORA (zp,X) (R172). -/
def execOraIzx (zz : Byte) (s : State) : Outcome :=
  readForm 6 oraEffect (.mem (.izx zz)) s

/-- 0x11, ORA (zp),Y (R172). -/
def execOraIzy (zz : Byte) (s : State) : Outcome :=
  readForm 5 oraEffect (.mem (.izy zz)) s

/-- 0x49, EOR immediate (R173). -/
def execEorImm (nn : Byte) (s : State) : Outcome :=
  readForm 2 eorEffect (.imm nn) s

/-- 0x45, EOR zero page (R173). -/
def execEorZp (zz : Byte) (s : State) : Outcome :=
  readForm 3 eorEffect (.mem (.zp zz)) s

/-- 0x55, EOR zero page + X (R173). -/
def execEorZpx (zz : Byte) (s : State) : Outcome :=
  readForm 4 eorEffect (.mem (.zpx zz)) s

/-- 0x4D, EOR absolute (R173). -/
def execEorAbs (addr : Word) (s : State) : Outcome :=
  readForm 4 eorEffect (.mem (.abs addr)) s

/-- 0x5D, EOR absolute + X (R173). -/
def execEorAbx (addr : Word) (s : State) : Outcome :=
  readForm 4 eorEffect (.mem (.abx addr)) s

/-- 0x59, EOR absolute + Y (R173). -/
def execEorAby (addr : Word) (s : State) : Outcome :=
  readForm 4 eorEffect (.mem (.aby addr)) s

/-- 0x41, EOR (zp,X) (R173). -/
def execEorIzx (zz : Byte) (s : State) : Outcome :=
  readForm 6 eorEffect (.mem (.izx zz)) s

/-- 0x51, EOR (zp),Y (R173). -/
def execEorIzy (zz : Byte) (s : State) : Outcome :=
  readForm 5 eorEffect (.mem (.izy zz)) s

/-- 0x24, BIT zero page (R174). -/
def execBitZp (zz : Byte) (s : State) : Outcome :=
  readForm 3 bitEffect (.mem (.zp zz)) s

/-- 0x2C, BIT absolute (R174). -/
def execBitAbs (addr : Word) (s : State) : Outcome :=
  readForm 4 bitEffect (.mem (.abs addr)) s

/-- 0x0A, ASL accumulator (R175). -/
def execAslAcc (s : State) : Outcome :=
  modifyAccumulator 2 aslValue leftFlags s

/-- 0x06, ASL zero page (R175). -/
def execAslZp (zz : Byte) (s : State) : Outcome :=
  modifyMemory 5 aslValue leftFlags (.zp zz) s

/-- 0x16, ASL zero page + X (R175). -/
def execAslZpx (zz : Byte) (s : State) : Outcome :=
  modifyMemory 6 aslValue leftFlags (.zpx zz) s

/-- 0x0E, ASL absolute (R175). -/
def execAslAbs (addr : Word) (s : State) : Outcome :=
  modifyMemory 6 aslValue leftFlags (.abs addr) s

/-- 0x1E, ASL absolute + X (R175). -/
def execAslAbx (addr : Word) (s : State) : Outcome :=
  modifyMemory 7 aslValue leftFlags (.abx addr) s

/-- 0x4A, LSR accumulator (R176). -/
def execLsrAcc (s : State) : Outcome :=
  modifyAccumulator 2 lsrValue rightFlags s

/-- 0x46, LSR zero page (R176). -/
def execLsrZp (zz : Byte) (s : State) : Outcome :=
  modifyMemory 5 lsrValue rightFlags (.zp zz) s

/-- 0x56, LSR zero page + X (R176). -/
def execLsrZpx (zz : Byte) (s : State) : Outcome :=
  modifyMemory 6 lsrValue rightFlags (.zpx zz) s

/-- 0x4E, LSR absolute (R176). -/
def execLsrAbs (addr : Word) (s : State) : Outcome :=
  modifyMemory 6 lsrValue rightFlags (.abs addr) s

/-- 0x5E, LSR absolute + X (R176). -/
def execLsrAbx (addr : Word) (s : State) : Outcome :=
  modifyMemory 7 lsrValue rightFlags (.abx addr) s

/-- 0x2A, ROL accumulator (R177). -/
def execRolAcc (s : State) : Outcome :=
  modifyAccumulator 2 rolValue leftFlags s

/-- 0x26, ROL zero page (R177). -/
def execRolZp (zz : Byte) (s : State) : Outcome :=
  modifyMemory 5 rolValue leftFlags (.zp zz) s

/-- 0x36, ROL zero page + X (R177). -/
def execRolZpx (zz : Byte) (s : State) : Outcome :=
  modifyMemory 6 rolValue leftFlags (.zpx zz) s

/-- 0x2E, ROL absolute (R177). -/
def execRolAbs (addr : Word) (s : State) : Outcome :=
  modifyMemory 6 rolValue leftFlags (.abs addr) s

/-- 0x3E, ROL absolute + X (R177). -/
def execRolAbx (addr : Word) (s : State) : Outcome :=
  modifyMemory 7 rolValue leftFlags (.abx addr) s

/-- 0x6A, ROR accumulator (R178). -/
def execRorAcc (s : State) : Outcome :=
  modifyAccumulator 2 rorValue rightFlags s

/-- 0x66, ROR zero page (R178). -/
def execRorZp (zz : Byte) (s : State) : Outcome :=
  modifyMemory 5 rorValue rightFlags (.zp zz) s

/-- 0x76, ROR zero page + X (R178). -/
def execRorZpx (zz : Byte) (s : State) : Outcome :=
  modifyMemory 6 rorValue rightFlags (.zpx zz) s

/-- 0x6E, ROR absolute (R178). -/
def execRorAbs (addr : Word) (s : State) : Outcome :=
  modifyMemory 6 rorValue rightFlags (.abs addr) s

/-- 0x7E, ROR absolute + X (R178). -/
def execRorAbx (addr : Word) (s : State) : Outcome :=
  modifyMemory 7 rorValue rightFlags (.abx addr) s

end Sys2Proof.Machine
end

