-- ==== Sys2Proof/Machine/Stack.lean ====
section
/-! DEFINITION. PHA, PHP, PLA, PLP (spec R240 to R243). -/

namespace Sys2Proof.Machine

/-- A push of one byte: 3 cycles (R240, R241). -/
def pushForm (v : Byte) (s : State) : Outcome :=
  ((push v s).bind fun _ s1 => .ok 3 s1).finish

/-- A pull of one byte: 4 cycles (R242, R243). -/
def pullForm (effect : Byte → State → State) (s : State) : Outcome :=
  ((pull s).bind fun v s1 => .ok 4 (effect v s1)).finish

/-- R242. -/
def plaEffect (v : Byte) (s : State) : State := (s.setA v).setNZ v

/-- R243. -/
def plpEffect (v : Byte) (s : State) : State := s.setStatus (pulledStatus v s.status)

/-! ### The meanings, one for each opcode (R115) -/

/-- 0x48, PHA implied (R240). -/
def execPha (s : State) : Outcome :=
  pushForm s.a s

/-- 0x08, PHP implied (R241). P does not change. -/
def execPhp (s : State) : Outcome :=
  pushForm (softwareStatus s.status) s

/-- 0x68, PLA implied (R242). -/
def execPla (s : State) : Outcome :=
  pullForm plaEffect s

/-- 0x28, PLP implied (R243). -/
def execPlp (s : State) : Outcome :=
  pullForm plpEffect s

end Sys2Proof.Machine
end

