-- ==== Sys2Proof/Machine/TransferIncDec.lean ====
section
/-! DEFINITION. Register transfers, increments and decrements (spec R290 to R301). -/

namespace Sys2Proof.Machine

/-- The result of INC (R300); C has no part in it. -/
def incValue (v : Byte) (_c : Bool) : Byte := v + 1

/-- The result of DEC (R301); C has no part in it. -/
def decValue (v : Byte) (_c : Bool) : Byte := v - 1

/-- The flags of INC and DEC: Z and N of the result (R300, R301). -/
def countFlags (_v r : Byte) (s : State) : State := s.setNZ r

/-! ### The meanings, one for each opcode (R115) -/

/-- 0xAA, TAX implied (R290). -/
def execTax (s : State) : Outcome :=
  impliedForm (fun s => (s.setX s.a).setNZ s.a) s

/-- 0xA8, TAY implied (R291). -/
def execTay (s : State) : Outcome :=
  impliedForm (fun s => (s.setY s.a).setNZ s.a) s

/-- 0x8A, TXA implied (R292). -/
def execTxa (s : State) : Outcome :=
  impliedForm (fun s => (s.setA s.x).setNZ s.x) s

/-- 0x98, TYA implied (R293). -/
def execTya (s : State) : Outcome :=
  impliedForm (fun s => (s.setA s.y).setNZ s.y) s

/-- 0xBA, TSX implied (R294). -/
def execTsx (s : State) : Outcome :=
  impliedForm (fun s => (s.setX s.sp).setNZ s.sp) s

/-- 0x9A, TXS implied (R295). -/
def execTxs (s : State) : Outcome :=
  impliedForm (fun s => s.setSp s.x) s

/-- 0xE8, INX implied (R296). -/
def execInx (s : State) : Outcome :=
  impliedForm (fun s => (s.setX (s.x + 1)).setNZ (s.x + 1)) s

/-- 0xC8, INY implied (R297). -/
def execIny (s : State) : Outcome :=
  impliedForm (fun s => (s.setY (s.y + 1)).setNZ (s.y + 1)) s

/-- 0xCA, DEX implied (R298). -/
def execDex (s : State) : Outcome :=
  impliedForm (fun s => (s.setX (s.x - 1)).setNZ (s.x - 1)) s

/-- 0x88, DEY implied (R299). -/
def execDey (s : State) : Outcome :=
  impliedForm (fun s => (s.setY (s.y - 1)).setNZ (s.y - 1)) s

/-- 0xE6, INC zero page (R300). -/
def execIncZp (zz : Byte) (s : State) : Outcome :=
  modifyMemory 5 incValue countFlags (.zp zz) s

/-- 0xF6, INC zero page + X (R300). -/
def execIncZpx (zz : Byte) (s : State) : Outcome :=
  modifyMemory 6 incValue countFlags (.zpx zz) s

/-- 0xEE, INC absolute (R300). -/
def execIncAbs (addr : Word) (s : State) : Outcome :=
  modifyMemory 6 incValue countFlags (.abs addr) s

/-- 0xFE, INC absolute + X (R300). -/
def execIncAbx (addr : Word) (s : State) : Outcome :=
  modifyMemory 7 incValue countFlags (.abx addr) s

/-- 0xC6, DEC zero page (R301). -/
def execDecZp (zz : Byte) (s : State) : Outcome :=
  modifyMemory 5 decValue countFlags (.zp zz) s

/-- 0xD6, DEC zero page + X (R301). -/
def execDecZpx (zz : Byte) (s : State) : Outcome :=
  modifyMemory 6 decValue countFlags (.zpx zz) s

/-- 0xCE, DEC absolute (R301). -/
def execDecAbs (addr : Word) (s : State) : Outcome :=
  modifyMemory 6 decValue countFlags (.abs addr) s

/-- 0xDE, DEC absolute + X (R301). -/
def execDecAbx (addr : Word) (s : State) : Outcome :=
  modifyMemory 7 decValue countFlags (.abx addr) s

end Sys2Proof.Machine
end

