-- ==== Sys2Proof/Machine/Dispatch.lean ====
section
/-! DEFINITION. One arm for each instruction: the call of its meaning. -/

namespace Sys2Proof.Machine

def exec (i : Instr) (s : State) : Host.Outcome State Fault Refusal :=
  match i with
  | .adcImm nn => Sys2Proof.Machine.execAdcImm nn s
  | .adcZp zz => Sys2Proof.Machine.execAdcZp zz s
  | .adcZpx zz => Sys2Proof.Machine.execAdcZpx zz s
  | .adcAbs addr => Sys2Proof.Machine.execAdcAbs addr s
  | .adcAbx addr => Sys2Proof.Machine.execAdcAbx addr s
  | .adcAby addr => Sys2Proof.Machine.execAdcAby addr s
  | .adcIzx zz => Sys2Proof.Machine.execAdcIzx zz s
  | .adcIzy zz => Sys2Proof.Machine.execAdcIzy zz s
  | .sbcImm nn => Sys2Proof.Machine.execSbcImm nn s
  | .sbcZp zz => Sys2Proof.Machine.execSbcZp zz s
  | .sbcZpx zz => Sys2Proof.Machine.execSbcZpx zz s
  | .sbcAbs addr => Sys2Proof.Machine.execSbcAbs addr s
  | .sbcAbx addr => Sys2Proof.Machine.execSbcAbx addr s
  | .sbcAby addr => Sys2Proof.Machine.execSbcAby addr s
  | .sbcIzx zz => Sys2Proof.Machine.execSbcIzx zz s
  | .sbcIzy zz => Sys2Proof.Machine.execSbcIzy zz s
  | .andImm nn => Sys2Proof.Machine.execAndImm nn s
  | .andZp zz => Sys2Proof.Machine.execAndZp zz s
  | .andZpx zz => Sys2Proof.Machine.execAndZpx zz s
  | .andAbs addr => Sys2Proof.Machine.execAndAbs addr s
  | .andAbx addr => Sys2Proof.Machine.execAndAbx addr s
  | .andAby addr => Sys2Proof.Machine.execAndAby addr s
  | .andIzx zz => Sys2Proof.Machine.execAndIzx zz s
  | .andIzy zz => Sys2Proof.Machine.execAndIzy zz s
  | .oraImm nn => Sys2Proof.Machine.execOraImm nn s
  | .oraZp zz => Sys2Proof.Machine.execOraZp zz s
  | .oraZpx zz => Sys2Proof.Machine.execOraZpx zz s
  | .oraAbs addr => Sys2Proof.Machine.execOraAbs addr s
  | .oraAbx addr => Sys2Proof.Machine.execOraAbx addr s
  | .oraAby addr => Sys2Proof.Machine.execOraAby addr s
  | .oraIzx zz => Sys2Proof.Machine.execOraIzx zz s
  | .oraIzy zz => Sys2Proof.Machine.execOraIzy zz s
  | .eorImm nn => Sys2Proof.Machine.execEorImm nn s
  | .eorZp zz => Sys2Proof.Machine.execEorZp zz s
  | .eorZpx zz => Sys2Proof.Machine.execEorZpx zz s
  | .eorAbs addr => Sys2Proof.Machine.execEorAbs addr s
  | .eorAbx addr => Sys2Proof.Machine.execEorAbx addr s
  | .eorAby addr => Sys2Proof.Machine.execEorAby addr s
  | .eorIzx zz => Sys2Proof.Machine.execEorIzx zz s
  | .eorIzy zz => Sys2Proof.Machine.execEorIzy zz s
  | .bitZp zz => Sys2Proof.Machine.execBitZp zz s
  | .bitAbs addr => Sys2Proof.Machine.execBitAbs addr s
  | .aslAcc => Sys2Proof.Machine.execAslAcc s
  | .aslZp zz => Sys2Proof.Machine.execAslZp zz s
  | .aslZpx zz => Sys2Proof.Machine.execAslZpx zz s
  | .aslAbs addr => Sys2Proof.Machine.execAslAbs addr s
  | .aslAbx addr => Sys2Proof.Machine.execAslAbx addr s
  | .lsrAcc => Sys2Proof.Machine.execLsrAcc s
  | .lsrZp zz => Sys2Proof.Machine.execLsrZp zz s
  | .lsrZpx zz => Sys2Proof.Machine.execLsrZpx zz s
  | .lsrAbs addr => Sys2Proof.Machine.execLsrAbs addr s
  | .lsrAbx addr => Sys2Proof.Machine.execLsrAbx addr s
  | .rolAcc => Sys2Proof.Machine.execRolAcc s
  | .rolZp zz => Sys2Proof.Machine.execRolZp zz s
  | .rolZpx zz => Sys2Proof.Machine.execRolZpx zz s
  | .rolAbs addr => Sys2Proof.Machine.execRolAbs addr s
  | .rolAbx addr => Sys2Proof.Machine.execRolAbx addr s
  | .rorAcc => Sys2Proof.Machine.execRorAcc s
  | .rorZp zz => Sys2Proof.Machine.execRorZp zz s
  | .rorZpx zz => Sys2Proof.Machine.execRorZpx zz s
  | .rorAbs addr => Sys2Proof.Machine.execRorAbs addr s
  | .rorAbx addr => Sys2Proof.Machine.execRorAbx addr s
  | .cmpImm nn => Sys2Proof.Machine.execCmpImm nn s
  | .cmpZp zz => Sys2Proof.Machine.execCmpZp zz s
  | .cmpZpx zz => Sys2Proof.Machine.execCmpZpx zz s
  | .cmpAbs addr => Sys2Proof.Machine.execCmpAbs addr s
  | .cmpAbx addr => Sys2Proof.Machine.execCmpAbx addr s
  | .cmpAby addr => Sys2Proof.Machine.execCmpAby addr s
  | .cmpIzx zz => Sys2Proof.Machine.execCmpIzx zz s
  | .cmpIzy zz => Sys2Proof.Machine.execCmpIzy zz s
  | .cpxImm nn => Sys2Proof.Machine.execCpxImm nn s
  | .cpxZp zz => Sys2Proof.Machine.execCpxZp zz s
  | .cpxAbs addr => Sys2Proof.Machine.execCpxAbs addr s
  | .cpyImm nn => Sys2Proof.Machine.execCpyImm nn s
  | .cpyZp zz => Sys2Proof.Machine.execCpyZp zz s
  | .cpyAbs addr => Sys2Proof.Machine.execCpyAbs addr s
  | .bcc oo => Sys2Proof.Machine.execBcc oo s
  | .bcs oo => Sys2Proof.Machine.execBcs oo s
  | .beq oo => Sys2Proof.Machine.execBeq oo s
  | .bne oo => Sys2Proof.Machine.execBne oo s
  | .bmi oo => Sys2Proof.Machine.execBmi oo s
  | .bpl oo => Sys2Proof.Machine.execBpl oo s
  | .bvc oo => Sys2Proof.Machine.execBvc oo s
  | .bvs oo => Sys2Proof.Machine.execBvs oo s
  | .pha => Sys2Proof.Machine.execPha s
  | .php => Sys2Proof.Machine.execPhp s
  | .pla => Sys2Proof.Machine.execPla s
  | .plp => Sys2Proof.Machine.execPlp s
  | .jmpAbs addr => Sys2Proof.Machine.execJmpAbs addr s
  | .jmpInd ptr => Sys2Proof.Machine.execJmpInd ptr s
  | .jsr addr => Sys2Proof.Machine.execJsr addr s
  | .rts => Sys2Proof.Machine.execRts s
  | .brk => Sys2Proof.Machine.execBrk s
  | .rti => Sys2Proof.Machine.execRti s
  | .tax => Sys2Proof.Machine.execTax s
  | .tay => Sys2Proof.Machine.execTay s
  | .txa => Sys2Proof.Machine.execTxa s
  | .tya => Sys2Proof.Machine.execTya s
  | .tsx => Sys2Proof.Machine.execTsx s
  | .txs => Sys2Proof.Machine.execTxs s
  | .inx => Sys2Proof.Machine.execInx s
  | .iny => Sys2Proof.Machine.execIny s
  | .dex => Sys2Proof.Machine.execDex s
  | .dey => Sys2Proof.Machine.execDey s
  | .incZp zz => Sys2Proof.Machine.execIncZp zz s
  | .incZpx zz => Sys2Proof.Machine.execIncZpx zz s
  | .incAbs addr => Sys2Proof.Machine.execIncAbs addr s
  | .incAbx addr => Sys2Proof.Machine.execIncAbx addr s
  | .decZp zz => Sys2Proof.Machine.execDecZp zz s
  | .decZpx zz => Sys2Proof.Machine.execDecZpx zz s
  | .decAbs addr => Sys2Proof.Machine.execDecAbs addr s
  | .decAbx addr => Sys2Proof.Machine.execDecAbx addr s
  | .ldaImm nn => Sys2Proof.Machine.execLdaImm nn s
  | .ldaZp zz => Sys2Proof.Machine.execLdaZp zz s
  | .ldaZpx zz => Sys2Proof.Machine.execLdaZpx zz s
  | .ldaAbs addr => Sys2Proof.Machine.execLdaAbs addr s
  | .ldaAbx addr => Sys2Proof.Machine.execLdaAbx addr s
  | .ldaAby addr => Sys2Proof.Machine.execLdaAby addr s
  | .ldaIzx zz => Sys2Proof.Machine.execLdaIzx zz s
  | .ldaIzy zz => Sys2Proof.Machine.execLdaIzy zz s
  | .ldxImm nn => Sys2Proof.Machine.execLdxImm nn s
  | .ldxZp zz => Sys2Proof.Machine.execLdxZp zz s
  | .ldxZpy zz => Sys2Proof.Machine.execLdxZpy zz s
  | .ldxAbs addr => Sys2Proof.Machine.execLdxAbs addr s
  | .ldxAby addr => Sys2Proof.Machine.execLdxAby addr s
  | .ldyImm nn => Sys2Proof.Machine.execLdyImm nn s
  | .ldyZp zz => Sys2Proof.Machine.execLdyZp zz s
  | .ldyZpx zz => Sys2Proof.Machine.execLdyZpx zz s
  | .ldyAbs addr => Sys2Proof.Machine.execLdyAbs addr s
  | .ldyAbx addr => Sys2Proof.Machine.execLdyAbx addr s
  | .staZp zz => Sys2Proof.Machine.execStaZp zz s
  | .staZpx zz => Sys2Proof.Machine.execStaZpx zz s
  | .staAbs addr => Sys2Proof.Machine.execStaAbs addr s
  | .staAbx addr => Sys2Proof.Machine.execStaAbx addr s
  | .staAby addr => Sys2Proof.Machine.execStaAby addr s
  | .staIzx zz => Sys2Proof.Machine.execStaIzx zz s
  | .staIzy zz => Sys2Proof.Machine.execStaIzy zz s
  | .stxZp zz => Sys2Proof.Machine.execStxZp zz s
  | .stxZpy zz => Sys2Proof.Machine.execStxZpy zz s
  | .stxAbs addr => Sys2Proof.Machine.execStxAbs addr s
  | .styZp zz => Sys2Proof.Machine.execStyZp zz s
  | .styZpx zz => Sys2Proof.Machine.execStyZpx zz s
  | .styAbs addr => Sys2Proof.Machine.execStyAbs addr s
  | .clc => Sys2Proof.Machine.execClc s
  | .cld => Sys2Proof.Machine.execCld s
  | .cli => Sys2Proof.Machine.execCli s
  | .clv => Sys2Proof.Machine.execClv s
  | .sec => Sys2Proof.Machine.execSec s
  | .sed => Sys2Proof.Machine.execSed s
  | .sei => Sys2Proof.Machine.execSei s
  | .nop => Sys2Proof.Machine.execNop s
  | .illegal op => Sys2Proof.Machine.execIllegal op s

end Sys2Proof.Machine
end

