-- ==== Sys2Proof/Machine/Fetch.lean ====
section
/-! DEFINITION. Fetching an instruction's bytes, and what a step does first at an instruction boundary (spec R37, R100, R113, R119, R405, R411). -/

namespace Sys2Proof.Machine

/-- One instruction byte: a bus read at PC, which then advances by 1 modulo 65536 (R37, R119). -/
def fetchByte (s : State) : Res Byte :=
  (busRead s.pc s).bind fun b s1 => .ok b (s1.setPc (s1.pc + 1))

/-- The operand bytes that the mode of `op` has, in address order, and the instruction they make with it (R101, R113). An illegal opcode's
following bytes are not read (R408), nor is BRK's padding byte (R263). -/
def fetchOperands (op : Byte) (s : State) : Res Instr :=
  match lookup op with
  | none => .ok (.illegal op) s
  | some r =>
    match r.mode.operandSize with
    | .none => .ok (r.build 0 0) s
    | .byte => (fetchByte s).bind fun b s1 => .ok (r.build b 0) s1
    | .word => (fetchByte s).bind fun ll s1 => (fetchByte s1).bind fun hh s2 => .ok (r.build ll hh) s2

/-- The opcode byte, its operand bytes, and the instruction they are (R100, R113). -/
def fetchInstr (s : State) : Res Instr :=
  (fetchByte s).bind fetchOperands

/-- What a step does. -/
inductive Boundary where
  | fault (f : Fault)
  | interrupt (kind : InterruptKind)
  | instruction
  deriving DecidableEq, Repr

/-- The order of events at an instruction boundary (R411): a core not reset or halted; a pending NMI; an asserted IRQ with I = 0; the
instruction at PC. -/
def boundary (s : State) : Boundary :=
  match s.runState with
  | .notReset => .fault .notReset
  | .halted r => .fault (faultOf r s)
  | .running =>
    if s.nmiPending then .interrupt .nmi
    else if s.irqLine && !(s.flag .i) then .interrupt .irq
    else .instruction

/-- The state in which the next step fetches and runs the instruction with the bytes given: they stand at PC, the plain memory
answers, the core runs and no interrupt is taken. -/
def placeInstr (bytes : List Byte) (s : State) : State :=
  let stored := bytes.foldl (fun (acc : Word × State) b => (acc.1 + 1, acc.2.storeByte acc.1 b)) (s.pc, s)
  { stored.2 with
    bus := { stored.2.bus with replies := [] }
    runState := .running
    nmiPending := false
    irqLine := s.irqLine && s.flag .i }

end Sys2Proof.Machine
end

