-- ==== Sys2Proof/Machine/Step.lean ====
section
/-! DEFINITION. `step()` (spec R119, R405, R411), and the state in which it runs a given instruction. -/

namespace Sys2Proof.Machine

/-- `step()`: the recorded fault of a core that does not run, an interrupt entry, or one instruction (R119, R411). -/
def step (s : State) : Host.Outcome State Fault Refusal :=
  match boundary s with
  | .fault f => .fault f
  | .interrupt kind => interruptEntry kind (s.beginOp .step)
  | .instruction =>
    match fetchInstr (s.beginOp .step) with
    | .ok i s1 => exec i s1
    | .busFault addr kind info s1 => (Res.busFault addr kind info s1).finish

/-- `s` with the instruction whose table bits are `w` placed where the next step fetches. -/
def State.withFetchWord (s : State) (nbits w : Nat) : State := placeInstr (tableBytes nbits w) s

end Sys2Proof.Machine
end

