-- ==== Sys2Proof/Machine/HostOps.lean ====
section
/-! DEFINITION. The host's operations between steps other than `step()` (spec R48, R402, R403, R415, R450, R452). -/

namespace Sys2Proof.Machine

namespace State

/-- A newly created core (R45, R452): registers unspecified (free values, U at 1), no line, no latch, not reset, over a plain-memory
bus that lists nothing and with no access made. -/
def created : State where
  a := Config.freeByte 0
  x := Config.freeByte 1
  y := Config.freeByte 2
  sp := Config.freeByte 3
  pc := Config.freeWord 5
  p := Config.freeByte 4 ||| 0x20#8
  runState := .notReset
  irqLine := false
  nmiPending := false
  bus := ⟨[], [], []⟩
  params := Params.default
  lastCycles := none
  freeCount := 6

/-- What `reset()` sets before its vector reads (R450). -/
def resetRegisters (s : State) : State :=
  ((((((s.setA 0x00#8).setX 0x00#8).setY 0x00#8).setStatus 0x24#8).setSp 0xFF#8).setNmiPending false).setLastCycles none

/-- The state a rejected vector read leaves (R450): the registers keep what `reset()` set, PC is a free value, the core is halted
with the record (log 16). -/
def haltReset (r : FaultRecord) (s : State) : State :=
  ((s.setPc (Config.freeWord s.freeCount)).useFree 1).setRunState (.halted r)

end State

/-- `reset()` (R450): two reads and no other access; allowed in any `run_state`. -/
def hostReset (s : State) : Outcome :=
  match busReadWord resetVector ((s.beginOp .reset).resetRegisters) with
  | .ok target s1 => .next ((s1.setPc target).setRunState .running)
  | .busFault addr kind info s1 => .fault (faultOf (.busFault addr kind info) (s1.haltReset (.busFault addr kind info)))

/-- `set_irq(level)` (R402). -/
def hostSetIrq (level : Bool) (s : State) : State := s.setIrqLine level

/-- `nmi()` (R403): one falling edge. -/
def hostNmi (s : State) : State := s.setNmiPending true

/-- The registers the host reads and writes (R48). -/
inductive HostReg where
  | a | x | y | sp | pc | p
  deriving DecidableEq, Repr

/-- The host reads a register (R48), an 8-bit one in the low byte; P with U at 1 (R43). -/
def hostRead (r : HostReg) (s : State) : Word :=
  match r with
  | .a => mkWord 0x00#8 s.a
  | .x => mkWord 0x00#8 s.x
  | .y => mkWord 0x00#8 s.y
  | .sp => mkWord 0x00#8 s.sp
  | .pc => s.pc
  | .p => mkWord 0x00#8 s.status

/-- The host writes a register (R48), an 8-bit one with the low byte of `v`; P stores `v | 0x20`; `run_state` does not change. -/
def hostWrite (r : HostReg) (v : Word) (s : State) : State :=
  match r with
  | .a => s.setA (loByte v)
  | .x => s.setX (loByte v)
  | .y => s.setY (loByte v)
  | .sp => s.setSp (loByte v)
  | .pc => s.setPc v
  | .p => s.setStatus (loByte v)

/-- The host reads `run_state` (R48). -/
def hostRunState (s : State) : RunState := s.runState

/-- The host reads `fault` (R45, R48): the record that put the core in `Halted`, none otherwise. -/
def hostFault (s : State) : Option FaultRecord :=
  match s.runState with
  | .halted r => some r
  | .notReset | .running => none

end Sys2Proof.Machine
end

