-- ==== Sys2Proof/Safety.lean ====
section
/-! DEFINITION. The terms in which claims are stated: what the bus will answer, the invariant, frames, and the spec's own formulas for
effective addresses, bus accesses and cycle counts, written apart from the meanings; and a safe run. -/

namespace Sys2Proof.Machine

/-! ### The bus -/

/-- The plain-memory bus of R72: no answer is queued, so every access is the memory's. -/
abbrev State.plainBus (s : State) : Prop := s.bus.replies = []

def BusReply.isReject : BusReply → Bool
  | .reject _ => true
  | .memory | .device _ => false

/-- The bus rejects none of the next `n` accesses (R407). -/
def State.busAccepts (n : Nat) (s : State) : Bool := (s.bus.replies.take n).all fun r => !r.isReject

/-- The bus rejects access number `k` from now, with `info`, and none before it (R407). -/
abbrev State.busRejects (k : Nat) (info : BusInfo) (s : State) : Prop :=
  s.busAccepts k = true ∧ s.bus.replies[k]? = some (.reject info)

/-- The byte that access number `k` from now returns if it is a read of `addr` and `addr` is not written before it (R72). -/
def State.answer (k : Nat) (addr : Word) (s : State) : Byte :=
  match s.bus.replies[k]? with
  | some (.device v) => v
  | some .memory | some (.reject _) | none => s.byteAt addr

/-- Access number `k` from now, if it is a write, stores in the plain memory (R72). -/
def State.storesAt (k : Nat) (s : State) : Bool :=
  match s.bus.replies[k]? with
  | some (.device _) | some (.reject _) => false
  | some .memory | none => true

/-- The bytes the bus returns for reads of PC and the two addresses after it (R100). -/
def State.nextBytes (s : State) : List Byte := [s.answer 0 s.pc, s.answer 1 (s.pc + 1), s.answer 2 (s.pc + 2)]

/-- The next step is at an instruction: the core runs and there is no interrupt to take (R405, R411). -/
abbrev State.atInstruction (s : State) : Prop :=
  s.runState = .running ∧ s.nmiPending = false ∧ (s.irqLine = false ∨ s.flag .i = true)

/-! ### The invariant -/

/-- Memory is in canonical form, and the stored P has U at 1 (R43). -/
def State.inv (s : State) : Bool := Memory.wf s.bus.mem && s.p.getLsbD 5

/-! ### Frames -/

/-- The registers but PC and P. -/
inductive Reg where
  | a | x | y | sp
  deriving DecidableEq, Repr

def State.reg (r : Reg) (s : State) : Byte :=
  match r with
  | .a => s.a
  | .x => s.x
  | .y => s.y
  | .sp => s.sp

/-- From `s` to `t` no register but those of `regs` and no flag but those of `flags` changes, and no sequencer state, parameter or
free-value counter does. It says nothing of PC, memory and the bus. -/
abbrev Frame (regs : List Reg) (flags : List Flag) (s t : State) : Prop :=
  (∀ r, r ∉ regs → t.reg r = s.reg r) ∧ (∀ f, f ∉ flags → t.flag f = s.flag f) ∧ t.runState = s.runState ∧
    t.irqLine = s.irqLine ∧ t.nmiPending = s.nmiPending ∧ t.params = s.params ∧ t.freeCount = s.freeCount

/-- Every byte of memory outside `stored` reads as before. -/
abbrev SameMemoryBut (stored : List Word) (s t : State) : Prop := ∀ addr, addr ∉ stored → t.byteAt addr = s.byteAt addr

/-- Z and N as `SetNZ(v)` leaves them (R15). -/
abbrev NZOf (v : Byte) (t : State) : Prop := t.flag .z = (v == 0) ∧ t.flag .n = v.getLsbD 7

/-- Access number `k` writes `v` at `addr`: the byte is there afterwards where the plain memory took it, and memory changes nowhere
else. -/
abbrev Stored (k : Nat) (addr : Word) (v : Byte) (s t : State) : Prop :=
  (s.storesAt k = true → t.byteAt addr = v) ∧ (s.storesAt k = false → t.byteAt addr = s.byteAt addr)

/-! ### Effective addresses (R101, R103 to R110), in numbers -/

/-- A number as an address, modulo 65536. -/
def word (n : Nat) : Word := BitVec.ofNat 16 n

/-- The stack location for a stack pointer, a number taken modulo 256 (R14, R36). -/
def stackLocation (sp : Nat) : Word := word (0x0100 + sp % 256)

/-- The 16-bit pointer that the next two reads take from page 0 at `z`, the second at `z + 1` inside the page (R108, R109). -/
def zeroPagePointer (z : Nat) (s : State) : Nat :=
  (s.answer 0 (word (z % 256))).toNat + 256 * (s.answer 1 (word ((z + 1) % 256))).toNat

/-- The address before Y or X is added to it (R107, R109). -/
def unindexed (m : MemMode) (s : State) : Nat :=
  match m with
  | .zp zz | .zpx zz | .zpy zz => zz.toNat
  | .abs addr | .abx addr | .aby addr => addr.toNat
  | .izx zz => zeroPagePointer (zz.toNat + s.x.toNat) s
  | .izy zz => zeroPagePointer zz.toNat s

/-- The effective address (R104 to R109). -/
def effectiveAddress (m : MemMode) (s : State) : Word :=
  match m with
  | .zp _ | .abs _ | .izx _ => word (unindexed m s)
  | .zpx _ => word ((unindexed m s + s.x.toNat) % 256)
  | .zpy _ => word ((unindexed m s + s.y.toNat) % 256)
  | .abx _ => word (unindexed m s + s.x.toNat)
  | .aby _ | .izy _ => word (unindexed m s + s.y.toNat)

/-- `page_cross` (R104 to R109): the high byte of EA differs from that of the un-indexed address, in ABX, ABY and IZY only. -/
def pageCrossed (m : MemMode) (s : State) : Bool :=
  match m with
  | .abx _ | .aby _ | .izy _ => decide ((effectiveAddress m s).toNat / 256 ≠ unindexed m s / 256)
  | .zp _ | .zpx _ | .zpy _ | .abs _ | .izx _ => false

/-- The number of reads of the pointer. -/
def pointerReads : MemMode → Nat
  | .izx _ | .izy _ => 2
  | .zp _ | .zpx _ | .zpy _ | .abs _ | .abx _ | .aby _ => 0

/-- The address of the second byte of the JMP indirect pointer: the next one, inside the page (R110). -/
def indirectHigh (ptr : Word) : Word := word (ptr.toNat / 256 * 256 + (ptr.toNat + 1) % 256)

/-- The operand byte `M` of an instruction that reads one (R17): the literal, A, or what the read of EA returns. -/
def operandByte (i : Instr) (s : State) : Byte :=
  match i.operand with
  | .source (.imm nn) => nn
  | .source (.mem m) => s.answer (pointerReads m) (effectiveAddress m s)
  | .accumulator | .implied | .indirect _ | .relative _ => s.a

/-! ### The bus accesses of each instruction after its bytes are fetched (R113) -/

/-- An access: its kind and its address. -/
abbrev Access := AccessKind × Word

/-- The resolver's reads of a pointer (R113). -/
def pointerAccesses (m : MemMode) (s : State) : List Access :=
  match m with
  | .izx zz => [(.read, word ((zz.toNat + s.x.toNat) % 256)), (.read, word ((zz.toNat + s.x.toNat + 1) % 256))]
  | .izy zz => [(.read, word zz.toNat), (.read, word ((zz.toNat + 1) % 256))]
  | .zp _ | .zpx _ | .zpy _ | .abs _ | .abx _ | .aby _ => []

/-- The accesses of a read, write or read-modify-write instruction with a memory operand, given those at EA (R113). -/
def memoryAccesses (kinds : List AccessKind) (i : Instr) (s : State) : List Access :=
  match i.memMode with
  | some m => pointerAccesses m s ++ kinds.map fun k => (k, effectiveAddress m s)
  | none => []

/-- `n` pushes from the stack pointer of `s` (R14). -/
def pushAccesses (n : Nat) (s : State) : List Access :=
  (List.range n).map fun k => (.write, stackLocation (s.sp.toNat + 256 - k))

/-- `n` pulls from the stack pointer of `s` (R14). -/
def pullAccesses (n : Nat) (s : State) : List Access :=
  (List.range n).map fun k => (.read, stackLocation (s.sp.toNat + 1 + k))

/-- The accesses an instruction makes after its bytes are fetched, in order (R113, operand access by class). -/
def ruleAccesses (i : Instr) (s : State) : List Access :=
  match i.mnemonic with
  | some .lda | some .ldx | some .ldy | some .adc | some .sbc | some .and | some .ora | some .eor | some .cmp | some .cpx
  | some .cpy | some .bit => memoryAccesses [.read] i s
  | some .sta | some .stx | some .sty => memoryAccesses [.write] i s
  | some .asl | some .lsr | some .rol | some .ror | some .inc | some .dec => memoryAccesses [.read, .write] i s
  | some .jmp =>
    match i.operand with
    | .indirect ptr => [(.read, ptr), (.read, indirectHigh ptr)]
    | .source _ | .accumulator | .implied | .relative _ => []
  | some .jsr => pushAccesses 2 s
  | some .rts => pullAccesses 2 s
  | some .brk => pushAccesses 3 s ++ [(.read, 0xFFFE#16), (.read, 0xFFFF#16)]
  | some .rti => pullAccesses 3 s
  | some .pha | some .php => pushAccesses 1 s
  | some .pla | some .plp => pullAccesses 1 s
  | some .bcc | some .bcs | some .beq | some .bne | some .bmi | some .bpl | some .bvc | some .bvs => []
  | some .tax | some .tay | some .txa | some .tya | some .tsx | some .txs | some .inx | some .iny | some .dex | some .dey => []
  | some .clc | some .cld | some .cli | some .clv | some .sec | some .sed | some .sei | some .nop => []
  | none => []

/-- The access a history entry records, a rejected one included. -/
def BusEvent.access : BusEvent → Option Access
  | .start _ => none
  | .read addr _ | .rejectedRead addr _ => some (.read, addr)
  | .write addr _ | .rejectedWrite addr _ _ => some (.write, addr)

/-- From `s` to `t` the history grew by exactly these accesses, in this order (R72, R79). -/
abbrev Accessed (accesses : List Access) (s t : State) : Prop :=
  ∃ es, t.bus.history = es ++ s.bus.history ∧ es.reverse.map BusEvent.access = accesses.map some

/-! ### Branches (R220 to R228) -/

/-- The condition of a branch; false for any other instruction. -/
def branchTaken (i : Instr) (s : State) : Bool :=
  match i.mnemonic with
  | some .bcc => !s.flag .c
  | some .bcs => s.flag .c
  | some .beq => s.flag .z
  | some .bne => !s.flag .z
  | some .bmi => s.flag .n
  | some .bpl => !s.flag .n
  | some .bvc => !s.flag .v
  | some .bvs => s.flag .v
  | _ => false

/-- The target of a branch: the address after it plus the signed offset, modulo 65536 (R112, R220). -/
def branchDestination (oo : Byte) (s : State) : Word := BitVec.ofInt 16 (s.pc.toNat + oo.toInt)

/-- The handler's extra cycles (R220): none not taken, 1 to the page of the next instruction, 2 to another page. -/
def branchExtra (i : Instr) (s : State) : Nat :=
  match i.operand with
  | .relative oo =>
    if branchTaken i s then (if (branchDestination oo s).toNat / 256 = s.pc.toNat / 256 then 1 else 2) else 0
  | .source _ | .accumulator | .implied | .indirect _ => 0

/-! ### Cycle counts by the opcode table (R120) -/

/-- `cycles(d, page_cross, branch_extra)` (R120). -/
def rowCycles (d : OpcodeRow) (pageCross : Bool) (extra : Nat) (p : Params) : Nat :=
  match d.penalty with
  | .pageCross => d.baseCycles + (if pageCross then 1 else 0)
  | .store =>
    match p.storePagePenalty with
    | .always => d.baseCycles
    | .onCross => d.baseCycles - 1 + (if pageCross then 1 else 0)
  | .branch => d.baseCycles + extra
  | .fixed => d.baseCycles

/-- The count of an instruction by its row of the opcode table; none for an illegal opcode. -/
def ruleCycles (i : Instr) (s : State) : Option Nat :=
  (lookup i.opcode).map fun d =>
    rowCycles d (match i.memMode with | some m => pageCrossed m s | none => false) (branchExtra i s) s.params

/-! ### A rule of an instruction -/

/-- The opcode bytes, modes, base cycle counts and penalty classes of a mnemonic are exactly `forms` (R115). -/
abbrev Encoded (m : Mnemonic) (forms : List (Byte × Mode × Nat × Penalty)) : Prop :=
  (∀ i : Instr, i.mnemonic = some m → ∃ n p, (i.opcode, i.operand.mode, n, p) ∈ forms) ∧
    ∀ form ∈ forms, ∃ d, lookup form.1 = some d ∧ d.opcode = form.1 ∧ d.mnemonic = m ∧ d.mode = form.2.1 ∧ d.baseCycles = form.2.2.1 ∧
      d.penalty = form.2.2.2

/-- What a rule of files 40 to 48 says of a mnemonic (R18): its encodings; that each of its instructions completes where the bus rejects
none of the accesses of R113, in a state that `result` describes, with exactly those accesses and the count of R120; and that a step
that fetches it ends with `BusFault` at the first of its bytes that the bus rejects. -/
abbrev RuleOf (m : Mnemonic) (forms : List (Byte × Mode × Nat × Penalty)) (result : Instr → State → State → Prop) : Prop :=
  Encoded m forms ∧
  (∀ (i : Instr) (s : State), i.mnemonic = some m → s.inv = true → s.busAccepts (ruleAccesses i s).length = true →
    ∃ t, exec i s = .next t ∧ result i s t ∧ Accessed (ruleAccesses i s) s t ∧ t.lastCycles = ruleCycles i s) ∧
  (∀ (i : Instr) (rest : List Byte) (s : State) (k : Nat) (info : BusInfo), i.mnemonic = some m → s.atInstruction →
    decode s.nextBytes = .ok (i, rest) → k < i.fetchLength → s.busRejects k info →
    ∃ t, step s = .fault (.busFault (s.pc + BitVec.ofNat 16 k) .read info t))

/-- `RuleOf` for a mnemonic that makes accesses after its bytes are fetched: it ends with `BusFault` at the first of them that the bus
rejects (R407). -/
abbrev AccessRuleOf (m : Mnemonic) (forms : List (Byte × Mode × Nat × Penalty)) (result : Instr → State → State → Prop) : Prop :=
  RuleOf m forms result ∧
  (∀ (i : Instr) (s : State) (k : Nat) (access : Access) (info : BusInfo),
    i.mnemonic = some m → (ruleAccesses i s)[k]? = some access → s.busRejects k info →
    ∃ t, exec i s = .fault (.busFault access.2 access.1 info t))

/-! ### Runs -/

/-- `n` steps from `s` end in a next state: no illegal opcode, no rejected access, and the core was reset. -/
def SafeRun (n : Nat) (s : State) : Prop := ∃ t, Sys2Proof.core.run n s = .next t

end Sys2Proof.Machine
end

