-- ==== Sys2Proof/Certificates/Slice0/Obligations.lean ====
section
/-! DEFINITION. The statements for the provers. Each docstring names the rules a statement formalises or rests on, and
those of them that the spec marks as its own decision or inference. -/

open Sys2Proof Sys2Proof.Machine

/-- The byte sequences A9 10, 6D 34 12, B1 40, 0A, D0 FE, 6C FF 10, 20 00 20, 00, 28, CA and EA decode to LDA #$10, ADC $1234, LDA
($40),Y, ASL A, BNE with offset FE, JMP ($10FF), JSR $2000, BRK, PLP, DEX and NOP. (R101, R115) The spec marks as its own
decisions or inferences, in rules this rests on: R101 (derived). -/
def Obligations.SpecWordsDecode : Prop :=
  (decode [0xA9#8, 0x10#8]).toOption = some (.ldaImm 0x10#8, []) ∧
  (decode [0x6D#8, 0x34#8, 0x12#8]).toOption = some (.adcAbs 0x1234#16, []) ∧
  (decode [0xB1#8, 0x40#8]).toOption = some (.ldaIzy 0x40#8, []) ∧
  (decode [0x0A#8]).toOption = some (.aslAcc, []) ∧
  (decode [0xD0#8, 0xFE#8]).toOption = some (.bne 0xFE#8, []) ∧
  (decode [0x6C#8, 0xFF#8, 0x10#8]).toOption = some (.jmpInd 0x10FF#16, []) ∧
  (decode [0x20#8, 0x00#8, 0x20#8]).toOption = some (.jsr 0x2000#16, []) ∧
  (decode [0x00#8]).toOption = some (.brk, []) ∧
  (decode [0x28#8]).toOption = some (.plp, []) ∧
  (decode [0xCA#8]).toOption = some (.dex, []) ∧
  (decode [0xEA#8]).toOption = some (.nop, [])

/-- For every well-formed instruction i, with every value of its operand, and every list of bytes rest: decode (encode i ++ rest) is i
with rest left over. (R100, R101, R115, R118) The spec marks as its own decisions or inferences, in rules this rests on: R101
(derived); R118 (derived). -/
def Obligations.DecodeOfEncodeIsTheInstruction : Prop :=
  ∀ (i : Instr) (rest : List Byte), i.wf = true → decode (encode i ++ rest) = .ok (i, rest)

/-- If a list of bytes decodes to i with rest left over, i is well-formed, and unless i is BRK (whose padding byte may hold any value
or be missing at the end of the list) the list is encode i followed by rest. (R100, R101, R118) The spec marks as its own
decisions or inferences, in rules this rests on: R101 (derived); R118 (derived). -/
def Obligations.DecodedBytesAreTheEncoding : Prop :=
  ∀ (bytes rest : List Byte) (i : Instr), decode bytes = .ok (i, rest) →
    i.wf = true ∧ (i ≠ .brk → bytes = encode i ++ rest) ∧
      (i = .brk → bytes = [0x00#8] ∧ rest = [] ∨ ∃ pad, bytes = 0x00#8 :: pad :: rest)

/-- The table has 151 rows with 151 different opcode bytes; lookup answers none for exactly the 105 bytes R117 lists; there are 105 of
them. (R114, R117) The spec marks as its own decisions or inferences, in rules this rests on: R117 (decision D14). -/
def Obligations.OpcodeTableSplitsTheBytes : Prop :=
  opcodeTable.length = 151 ∧ illegalOpcodes.length = 105 ∧
  opcodeTable.Pairwise (fun d e => d.opcode ≠ e.opcode) ∧
  ∀ op : Byte, lookup op = none ↔ op ∈ illegalOpcodes

/-- If the core is running, no NMI is pending, no IRQ is taken, the bytes the bus returns at PC decode to i, and the bus rejects none
of the reads of those bytes, then step is exec of i in the state in which exactly the bytes of i (all but BRK's padding byte) have
been read in order and PC is the address after them. (R37, R113, R119) The spec marks as its own decisions or inferences, in rules
this rests on: R37 (derived); R113 (decisions D19, D20, D25); R119 (decisions D11, D14, D16). -/
def Obligations.StepRunsTheDecodedInstruction : Prop :=
  ∀ (s : State) (i : Instr) (rest : List Byte),
    s.runState = .running → s.nmiPending = false → (s.irqLine = false ∨ s.flag .i = true) →
    decode [s.answer 0 s.pc, s.answer 1 (s.pc + 1), s.answer 2 (s.pc + 2)] = .ok (i, rest) →
    s.busAccepts i.fetchLength = true →
    step s = exec i
      { s with
        pc := s.pc + BitVec.ofNat 16 i.fetchLength
        bus :=
          { mem := s.bus.mem
            replies := s.bus.replies.drop i.fetchLength
            history :=
              (((List.range i.fetchLength).map fun k =>
                BusEvent.read (s.pc + BitVec.ofNat 16 k) (s.answer k (s.pc + BitVec.ofNat 16 k))).reverse) ++
              BusEvent.start .step :: s.bus.history } }

/-- A step of a core that is not reset is the fault NotReset; a step of a halted core is its recorded fault; a step of a running core
with a pending NMI is the NMI entry, whatever I and the IRQ line are; without a pending NMI, with the IRQ line asserted and I = 0,
it is the IRQ entry; otherwise the step reads the byte at PC: its history has a read at PC right after the marker of the step, or
a rejected read at PC. (R119, R405, R411) The spec marks as its own decisions or inferences, in rules this rests on: R119
(decisions D11, D14, D16); R405 (decisions D11, D12, D13); R411 (decision D12). -/
def Obligations.EventsAtABoundary : Prop :=
  ∀ s : State,
    (s.runState = .notReset → step s = .fault .notReset) ∧
    (∀ r, s.runState = .halted r → step s = .fault (faultOf r s)) ∧
    (s.runState = .running → s.nmiPending = true → step s = interruptEntry .nmi (s.beginOp .step)) ∧
    (s.runState = .running → s.nmiPending = false → s.irqLine = true → s.flag .i = false →
      step s = interruptEntry .irq (s.beginOp .step)) ∧
    (s.runState = .running → s.nmiPending = false → (s.irqLine = false ∨ s.flag .i = true) →
      ∀ t, (step s = .next t ∨ (∃ op addr, step s = .fault (.illegalOpcode op addr t)) ∨
          ∃ addr kind info, step s = .fault (.busFault addr kind info t)) →
        ∃ es e, t.bus.history = es ++ e :: .start .step :: s.bus.history ∧ e.access = some (.read, s.pc))

/-- For NMI and IRQ, where the bus rejects none of the five accesses: PC high, PC low and the status with B = 0 and U = 1 are pushed
in this order, SP goes down by 3, I is set, PC is the vector's word (FFFA/FFFB or FFFE/FFFF), an NMI clears its latch, the count
is 7, and no other register, flag, input or byte of memory changes. Where the bus rejects one of the accesses the entry is
BusFault at the first such access. (R404, R406) The spec marks as its own decisions or inferences, in rules this rests on: R404
(decision D6); R406 (decision D24). -/
def Obligations.InterruptEntryEffect : Prop :=
  (∀ (s : State) (kind : InterruptKind), s.inv = true → s.busAccepts 5 = true →
    ∃ t, interruptEntry kind s = .next t ∧
      t.pc = (match kind with
        | .nmi => mkWord (s.answer 4 0xFFFB#16) (s.answer 3 0xFFFA#16)
        | .irq => mkWord (s.answer 4 0xFFFF#16) (s.answer 3 0xFFFE#16)) ∧
      t.sp = s.sp - 3 ∧ t.flag .i = true ∧
      t.nmiPending = (match kind with | .nmi => false | .irq => s.nmiPending) ∧
      Stored 0 (stackLocation s.sp.toNat) (hiByte s.pc) s t ∧
      Stored 1 (stackLocation (s.sp.toNat + 255)) (loByte s.pc) s t ∧
      Stored 2 (stackLocation (s.sp.toNat + 254)) ((s.status &&& 0xEF#8) ||| 0x20#8) s t ∧
      SameMemoryBut [stackLocation s.sp.toNat, stackLocation (s.sp.toNat + 255), stackLocation (s.sp.toNat + 254)] s t ∧
      Accessed (pushAccesses 3 s ++ (match kind with
        | .nmi => [(.read, 0xFFFA#16), (.read, 0xFFFB#16)]
        | .irq => [(.read, 0xFFFE#16), (.read, 0xFFFF#16)])) s t ∧
      t.a = s.a ∧ t.x = s.x ∧ t.y = s.y ∧ (∀ f, f ≠ .i → t.flag f = s.flag f) ∧
      t.runState = s.runState ∧ t.irqLine = s.irqLine ∧ t.params = s.params ∧ t.freeCount = s.freeCount ∧
      t.lastCycles = some 7) ∧
  ∀ (s : State) (kind : InterruptKind) (k : Nat) (access : Access) (info : BusInfo),
    (pushAccesses 3 s ++ (match kind with
      | .nmi => [(.read, 0xFFFA#16), (.read, 0xFFFB#16)]
      | .irq => [(.read, 0xFFFE#16), (.read, 0xFFFF#16)]))[k]? = some access → s.busRejects k info →
    ∃ t, interruptEntry kind s = .fault (.busFault access.2 access.1 info t)

/-- A core whose run_state is NotReset answers every step with the fault NotReset, which carries no changed state; a newly created
core is such a core, and so it stays after the host sets the IRQ line or requests an NMI. (R409, R452) The spec marks as its own
decisions or inferences, in rules this rests on: R409 (decision D16); R452 (decisions D16, D22). -/
def Obligations.StepBeforeResetDoesNothing : Prop :=
  (∀ s : State, s.runState = .notReset → step s = .fault .notReset) ∧
  State.created.runState = .notReset ∧
  ∀ (s : State) (level : Bool), s.runState = .notReset →
    step (hostSetIrq level s) = .fault .notReset ∧ step (hostNmi s) = .fault .notReset

/-- If a running core with no interrupt to take reads one of the 105 bytes at PC, the step is the fault IllegalOpcode with that byte
and PC; the state it leaves has run_state Halted with the record, one bus read more in the history and no cycle count, and is
otherwise the state before, PC included; a step of that state, after any change of the interrupt inputs, is the same fault with no
access. (R408) The spec marks as its own decisions or inferences, in rules this rests on: R408 (decision D14). -/
def Obligations.IllegalOpcodeHaltsTheCore : Prop :=
  ∀ s : State, s.runState = .running → s.nmiPending = false → (s.irqLine = false ∨ s.flag .i = true) →
    s.busAccepts 1 = true → s.answer 0 s.pc ∈ illegalOpcodes →
    ∃ t, step s = .fault (.illegalOpcode (s.answer 0 s.pc) s.pc t) ∧
      t = { s with
            runState := .halted (.illegalOpcode (s.answer 0 s.pc) s.pc)
            lastCycles := none
            bus :=
              { mem := s.bus.mem
                replies := s.bus.replies.drop 1
                history := .read s.pc (s.answer 0 s.pc) :: .start .step :: s.bus.history } } ∧
      step t = .fault (.illegalOpcode (s.answer 0 s.pc) s.pc t) ∧
      ∀ level, step (hostSetIrq level t) = .fault (.illegalOpcode (s.answer 0 s.pc) s.pc (hostSetIrq level t)) ∧
        step (hostNmi t) = .fault (.illegalOpcode (s.answer 0 s.pc) s.pc (hostNmi t))

/-- The 105 bytes of R117 have no descriptor and decode to the illegal-opcode instruction; every other byte has a descriptor.
Executing the illegal-opcode instruction with PC after its byte is the fault IllegalOpcode for the address PC - 1; the state it
leaves has PC there, the core halted with the record, no cycle count, and everything else unchanged. (R117) The spec marks as its
own decisions or inferences, in rules this rests on: R117 (decision D14). -/
def Obligations.IllegalInstructionStops : Prop :=
  (∀ op ∈ illegalOpcodes, lookup op = none ∧ ∀ rest, decode (op :: rest) = .ok (.illegal op, rest)) ∧
  illegalOpcodes.length = 105 ∧ (∀ op : Byte, op ∉ illegalOpcodes → ∃ d, lookup op = some d) ∧
  ∀ (op : Byte) (s : State), exec (.illegal op) s =
    .fault (.illegalOpcode op (s.pc - 1)
      { s with pc := s.pc - 1, runState := .halted (.illegalOpcode op (s.pc - 1)), lastCycles := none })

/-- If a step of a running core is a BusFault, the state it leaves is halted with that record, its last history entry is the rejected
access with what the bus reported, every entry between it and the step's start is an access, and the history before the step is
kept under them. Where the state had the invariant, every byte of memory that differs has the write of its new value among those
accesses, and a write that the plain memory took is still there. No cycle count is returned, the interrupt line and the parameters
are as before, the NMI latch is as before or cleared, U reads 1, and a step of it is the same fault. (A, X, Y, SP, PC and P are
free values there: log 8; which writes the plain memory takes: log 19.) (R403, R407) The spec marks as its own decisions or
inferences, in rules this rests on: R403 (decision D10); R407 (decision D15). -/
def Obligations.BusFaultHaltsTheCore : Prop :=
  ∀ (s t : State) (addr : Word) (kind : AccessKind) (info : BusInfo), s.runState = .running →
    step s = .fault (.busFault addr kind info t) →
    t.runState = .halted (.busFault addr kind info) ∧ t.lastCycles = none ∧ t.irqLine = s.irqLine ∧ t.params = s.params ∧
    (t.nmiPending = s.nmiPending ∨ t.nmiPending = false) ∧ t.flag .u = true ∧
    (∃ es e, t.bus.history = e :: (es ++ .start .step :: s.bus.history) ∧ (∀ x ∈ es, x.access ≠ none) ∧
      (e = .rejectedRead addr info ∧ kind = .read ∨ ∃ v, e = .rejectedWrite addr v info ∧ kind = .write) ∧
      (s.inv = true →
        (∀ b, t.byteAt b ≠ s.byteAt b → BusEvent.write b (t.byteAt b) ∈ es) ∧
        ∀ (k : Nat) (b : Word) (v : Byte), es.reverse[k]? = some (.write b v) → s.storesAt k = true → t.byteAt b = v)) ∧
    step t = .fault (.busFault addr kind info t)

/-- For every instruction but the illegal opcodes and every state in which the bus rejects none of the accesses R113 gives it, exec
answers a next state. (R113, R401) The spec marks as its own decisions or inferences, in rules this rests on: R113 (decisions D19,
D20, D25); R401 (decision D14). -/
def Obligations.EveryLegalInstructionCompletes : Prop :=
  ∀ (i : Instr) (s : State), i.mnemonic ≠ none → s.busAccepts (ruleAccesses i s).length = true →
    ∃ t, exec i s = .next t

/-- For every instruction and state: if the bus rejects access number k of those R113 lists and none before, exec is BusFault for that
access's address and kind with what the bus reported; the accesses made are the first k + 1 of the list, and the core is halted
with the record. (R113, R407, R411) The spec marks as its own decisions or inferences, in rules this rests on: R113 (decisions
D19, D20, D25); R407 (decision D15); R411 (decision D12). -/
def Obligations.FirstRejectedAccessIsTheFault : Prop :=
  ∀ (i : Instr) (s : State) (k : Nat) (access : Access) (info : BusInfo),
    (ruleAccesses i s)[k]? = some access → s.busRejects k info →
    ∃ t, exec i s = .fault (.busFault access.2 access.1 info t) ∧
      Accessed ((ruleAccesses i s).take (k + 1)) s t ∧ t.runState = .halted (.busFault access.2 access.1 info)

/-- For every instruction and state, if exec answers a next state the history grew by exactly the accesses R113 lists for the
instruction after its bytes are fetched (pointer reads, one read, one write, or a read and a write of EA, pushes, pulls, vector
reads), in that order; there is no other access. (R79, R113) The spec marks as its own decisions or inferences, in rules this
rests on: R79 (decisions D19, D20); R113 (decisions D19, D20, D25). -/
def Obligations.AccessesOfEachStep : Prop :=
  ∀ (i : Instr) (s t : State), exec i s = .next t → Accessed (ruleAccesses i s) s t

/-- For every instruction and state, if exec answers a next state the count is the row's base count, plus page_cross for the read
class, by STORE_PAGE_PENALTY for indexed stores (both options), plus the branch's extra cycles, and nothing for the other opcodes.
(R115, R120, R220) The spec marks as its own decisions or inferences, in rules this rests on: R120 (decisions D18, D33); R220
(decision D21). -/
def Obligations.CyclesFollowTheTable : Prop :=
  ∀ (i : Instr) (s t : State), exec i s = .next t → t.lastCycles = ruleCycles i s ∧ t.lastCycles ≠ none

/-- Memory of State.reset is in canonical form and bit 5 of P is 1 (the reset memory and freeCount are the model's choice: log 2, 9).
(R43, R49) The spec marks as its own decisions or inferences, in rules this rests on: R43 (decision D30); R49 (decisions D16,
D22). -/
def Obligations.ResetStateHasTheInvariant : Prop :=
  State.reset.inv = true

/-- For every state with the invariant (memory in canonical form, bit 5 of the stored P set): if a step answers a next state, or a
fault that carries a state, that state has the invariant. (R43, R72) The spec marks as its own decisions or inferences, in rules
this rests on: R43 (decision D30); R72 (decision D35). -/
def Obligations.StepKeepsTheInvariant : Prop :=
  ∀ s : State, s.inv = true →
    (∀ t, step s = .next t → t.inv = true) ∧
    (∀ op addr t, step s = .fault (.illegalOpcode op addr t) → t.inv = true) ∧
    ∀ addr kind info t, step s = .fault (.busFault addr kind info t) → t.inv = true

/-- A newly created core has the invariant, and the host's reset (completed or faulting), set_irq, nmi and register writes keep it.
(R43, R48, R450) The spec marks as its own decisions or inferences, in rules this rests on: R43 (decision D30); R48 (decision
D23); R450 (decisions D6, D22, D34). -/
def Obligations.HostOperationsKeepTheInvariant : Prop :=
  State.created.inv = true ∧
  ∀ s : State, s.inv = true →
    (∀ t, hostReset s = .next t → t.inv = true) ∧
    (∀ addr kind info t, hostReset s = .fault (.busFault addr kind info t) → t.inv = true) ∧
    (∀ level, (hostSetIrq level s).inv = true) ∧ (hostNmi s).inv = true ∧ ∀ r v, (hostWrite r v s).inv = true

/-- Whatever a completed step does, the IRQ line (which only the host changes), the parameters and the Break flag are as before, the
core is running, and the NMI latch is as before or cleared. (R42, R402, R403) The spec marks as its own decisions or inferences,
in rules this rests on: R42 (decision D7); R402 (decision D10); R403 (decision D10). -/
def Obligations.CompletedStepsKeepLineParametersAndBreak : Prop :=
  ∀ s t : State, step s = .next t →
    t.irqLine = s.irqLine ∧ t.params = s.params ∧ t.flag .b = s.flag .b ∧ t.runState = .running ∧
      (t.nmiPending = s.nmiPending ∨ t.nmiPending = false)

/-- If a step answers a next state, the new history is the old one with the step's marker and the step's accesses put before it, and
for every byte of memory that reads differently there is a write of the value it now holds, at its address, among those accesses.
(R72, R79, R81) The spec marks as its own decisions or inferences, in rules this rests on: R72 (decision D35); R79 (decisions D19,
D20). -/
def Obligations.MemoryChangesOnlyWhereWritten : Prop :=
  ∀ s t : State, s.inv = true → step s = .next t →
    ∃ es, t.bus.history = es ++ .start .step :: s.bus.history ∧ (∀ e ∈ es, e.access ≠ none) ∧
      ∀ b, t.byteAt b ≠ s.byteAt b → BusEvent.write b (t.byteAt b) ∈ es

/-- If a step of a state answers a next state, it answers the same next state whatever count the state held from the step before.
(R459) The spec marks as its own decisions or inferences, in rules this rests on: R459 (decision D33). -/
def Obligations.CycleCountIsNeverRead : Prop :=
  ∀ (s t : State) (n : Option Nat), step s = .next t → step (s.setLastCycles n) = .next t

/-- If a step of a state answers a next state, a step of the same state with the other STORE_PAGE_PENALTY answers the same next state
but for that parameter and the count. (R9, R459) The spec marks as its own decisions or inferences, in rules this rests on: R9
(decisions D17, D18); R459 (decision D33). -/
def Obligations.StorePenaltyAffectsOnlyTheCount : Prop :=
  ∀ (s t : State) (p : StorePagePenalty), step s = .next t →
    ∃ n, step { s with params := { s.params with storePagePenalty := p } } =
      .next { t with params := { t.params with storePagePenalty := p }, lastCycles := n }

/-- Over the plain-memory bus, in every state with the invariant: a write of v at an address completes, a read of that address then
returns v, every other address reads as before, PC and the other registers and flags are unchanged, and each of the two is one
entry of the history. (R13, R72, R81) The spec marks as its own decisions or inferences, in rules this rests on: R72 (decision
D35). -/
def Obligations.WriteThenReadPlainMemory : Prop :=
  ∀ (s : State) (addr : Word) (v : Byte), s.inv = true → s.plainBus →
    ∃ t u, busWrite addr v s = .ok () t ∧ busRead addr t = .ok v u ∧ SameMemoryBut [addr] s u ∧ Frame [] [] s u ∧ u.pc = s.pc ∧
      u.bus.history = .read addr v :: .write addr v :: s.bus.history ∧ u.plainBus

/-- Where the bus rejects neither read, MemRead(addr, 2) returns low byte + 256 * high byte of the answers at addr and at (addr + 1)
mod 65536, and makes these two reads in this order. (R13, R75, R76) The spec marks as its own decisions or inferences, in rules
this rests on: R76 (decisions D2, D3). -/
def Obligations.WordReadIsTwoByteReads : Prop :=
  ∀ (s : State) (addr : Word), s.busAccepts 2 = true →
    ∃ w t, busReadWord addr s = .ok w t ∧
      w.toNat = (s.answer 0 addr).toNat + 256 * (s.answer 1 (word (addr.toNat + 1))).toNat ∧
      Accessed [(.read, addr), (.read, word (addr.toNat + 1))] s t ∧ Frame [] [] s t ∧ t.pc = s.pc ∧ SameMemoryBut [] s t

/-- Where the bus does not reject the access: Push(v) makes one write of v at 0x0100 + SP and leaves SP - 1 modulo 256; Pull() makes
one read at 0x0100 + (SP + 1 modulo 256), returns what it answers and leaves that SP; nothing else changes. (R14) The spec marks
as its own decisions or inferences, in rules this rests on: R14 (decision D5). -/
def Obligations.PushAndPull : Prop :=
  ∀ s : State, s.inv = true → s.busAccepts 1 = true →
    (∀ v, ∃ t, push v s = .ok () t ∧ t.sp.toNat = (s.sp.toNat + 255) % 256 ∧ Stored 0 (stackLocation s.sp.toNat) v s t ∧
      SameMemoryBut [stackLocation s.sp.toNat] s t ∧ Accessed [(.write, stackLocation s.sp.toNat)] s t ∧
      Frame [.sp] [] s t ∧ t.pc = s.pc) ∧
    ∃ t, pull s = .ok (s.answer 0 (stackLocation (s.sp.toNat + 1))) t ∧ t.sp.toNat = (s.sp.toNat + 1) % 256 ∧
      SameMemoryBut [] s t ∧ Accessed [(.read, stackLocation (s.sp.toNat + 1))] s t ∧ Frame [.sp] [] s t ∧ t.pc = s.pc

/-- For each of the eight memory modes, where the bus rejects no pointer read, the resolver answers the rules' effective address and
page_cross (zero-page sums modulo 256, absolute sums modulo 65536, pointers inside page 0), makes exactly the pointer reads, and
changes no register, flag or byte of memory. (R104, R105, R106, R107, R108, R109, R111) The spec marks as its own decisions or
inferences, in rules this rests on: R107 (derived); R108 (decision D4); R109 (decision D4). -/
def Obligations.EffectiveAddressOfEachMode : Prop :=
  ∀ (m : MemMode) (s : State), s.busAccepts (pointerReads m) = true →
    ∃ t, resolve m s = .ok { ea := effectiveAddress m s, pageCross := pageCrossed m s } t ∧
      Accessed (pointerAccesses m s) s t ∧ Frame [] [] s t ∧ t.pc = s.pc ∧ SameMemoryBut [] s t

/-- From any state, where the bus rejects neither vector read, reset completes with A = X = Y = 0, SP = 0xFF, P = 0x24, PC the little-
endian word at 0xFFFC, run_state Running, no pending NMI, no fault and the IRQ line as it was; before the first reset a created
core has run_state NotReset and both inputs false. (R49) The spec marks as its own decisions or inferences, in rules this rests
on: R49 (decisions D16, D22). -/
def Obligations.ResetLeavesTheTabulatedState : Prop :=
  (∀ s : State, s.busAccepts 2 = true →
    ∃ t, hostReset s = .next t ∧ t.a = 0x00#8 ∧ t.x = 0x00#8 ∧ t.y = 0x00#8 ∧ t.sp = 0xFF#8 ∧ t.status = 0x24#8 ∧
      t.pc = mkWord (s.answer 1 0xFFFD#16) (s.answer 0 0xFFFC#16) ∧ hostRunState t = .running ∧ t.nmiPending = false ∧
      t.irqLine = s.irqLine ∧ hostFault t = none) ∧
  hostRunState State.created = .notReset ∧ State.created.irqLine = false ∧ State.created.nmiPending = false

/-- From any run_state reset makes the reads of 0xFFFC and 0xFFFD and nothing else, writes no memory and reports no count; if the bus
rejects the first or the second, reset is BusFault for it and leaves the core halted with the record, A, X, Y, SP and P as reset
sets them and the NMI latch cleared. (R450) The spec marks as its own decisions or inferences, in rules this rests on: R450
(decisions D6, D22, D34). -/
def Obligations.ResetSequence : Prop :=
  ∀ s : State,
    (s.busAccepts 2 = true → ∃ t, hostReset s = .next t ∧
      t.bus.history = .read 0xFFFD#16 (s.answer 1 0xFFFD#16) :: .read 0xFFFC#16 (s.answer 0 0xFFFC#16) ::
        .start .reset :: s.bus.history ∧
      SameMemoryBut [] s t ∧ t.lastCycles = none ∧ t.params = s.params) ∧
    ∀ (k : Nat) (info : BusInfo) (addr : Word), s.busRejects k info → (k = 0 ∧ addr = 0xFFFC#16 ∨ k = 1 ∧ addr = 0xFFFD#16) →
      ∃ t, hostReset s = .fault (.busFault addr .read info t) ∧ t.runState = .halted (.busFault addr .read info) ∧
        t.a = 0x00#8 ∧ t.x = 0x00#8 ∧ t.y = 0x00#8 ∧ t.sp = 0xFF#8 ∧ t.status = 0x24#8 ∧ t.nmiPending = false ∧
        t.irqLine = s.irqLine ∧ SameMemoryBut [] s t

/-- Resetting the created core answers State.reset (its memory, PC 0x0000 read from it, history and freeCount being the model's
choices: log 2, 6, 9, 10). (R450, R452) The spec marks as its own decisions or inferences, in rules this rests on: R450 (decisions
D6, D22, D34); R452 (decisions D16, D22). -/
def Obligations.ResetOfACreatedCoreIsTheResetState : Prop :=
  hostReset State.created = .next State.reset

/-- Writing a register and reading it back gives the value of its width (for P with bit 5 set); every other register reads as before;
run_state and fault do not change, so a write of PC does not leave Halted or NotReset. (R43, R48) The spec marks as its own
decisions or inferences, in rules this rests on: R43 (decision D30); R48 (decision D23). -/
def Obligations.HostAccessors : Prop :=
  ∀ (s : State) (r : HostReg) (v : Word),
    hostRead r (hostWrite r v s) =
      (match r with
        | .pc => v
        | .p => mkWord 0x00#8 (loByte v ||| 0x20#8)
        | .a | .x | .y | .sp => mkWord 0x00#8 (loByte v)) ∧
    (∀ q, q ≠ r → hostRead q (hostWrite r v s) = hostRead q s) ∧
    hostRunState (hostWrite r v s) = hostRunState s ∧ hostFault (hostWrite r v s) = hostFault s ∧
    (hostWrite r v s).bus = s.bus ∧ (hostWrite r v s).irqLine = s.irqLine ∧ (hostWrite r v s).nmiPending = s.nmiPending

/-- U reads 1 in every state, after every write of P or of any flag, to the host, and in the bytes PHP, BRK, NMI and IRQ push. (R43)
The spec marks as its own decisions or inferences, in rules this rests on: R43 (decision D30). -/
def Obligations.UnusedReadsOne : Prop :=
  ∀ (s : State) (v : Byte) (w : Word) (f : Flag) (on : Bool),
    s.flag .u = true ∧ (s.setStatus v).p.getLsbD 5 = true ∧ (s.setFlag f on).p.getLsbD 5 = true ∧
    (hostRead .p s).getLsbD 5 = true ∧ (hostWrite .p w s).p.getLsbD 5 = true ∧
    (softwareStatus v).getLsbD 5 = true ∧ (hardwareStatus v).getLsbD 5 = true ∧ (pulledStatus v s.status).getLsbD 5 = true ∧
    ∀ t, (hostReset s = .next t → t.p.getLsbD 5 = true) ∧
      (exec .plp s = .next t → t.p.getLsbD 5 = true) ∧ (exec .rti s = .next t → t.p.getLsbD 5 = true)

/-- LDA, LDX, LDY in every mode: the register takes M, Z and N are those of M; no other register, no other flag and no byte of memory
changes; PC is the address after the instruction. In full as `AccessRuleOf` says it. (R320, R321, R322) -/
def Obligations.Loads : Prop :=
  AccessRuleOf .lda
    [(0xA9#8, .imm, 2, .fixed), (0xA5#8, .zp, 3, .fixed), (0xB5#8, .zpx, 4, .fixed), (0xAD#8, .abs, 4, .fixed),
      (0xBD#8, .abx, 4, .pageCross), (0xB9#8, .aby, 4, .pageCross), (0xA1#8, .izx, 6, .fixed), (0xB1#8, .izy, 5, .pageCross)]
    (fun i s t => t.a = operandByte i s ∧ NZOf (operandByte i s) t ∧ Frame [.a] [.z, .n] s t ∧ t.pc = s.pc ∧ SameMemoryBut [] s t) ∧
  AccessRuleOf .ldx
    [(0xA2#8, .imm, 2, .fixed), (0xA6#8, .zp, 3, .fixed), (0xB6#8, .zpy, 4, .fixed), (0xAE#8, .abs, 4, .fixed),
      (0xBE#8, .aby, 4, .pageCross)]
    (fun i s t => t.x = operandByte i s ∧ NZOf (operandByte i s) t ∧ Frame [.x] [.z, .n] s t ∧ t.pc = s.pc ∧ SameMemoryBut [] s t) ∧
  AccessRuleOf .ldy
    [(0xA0#8, .imm, 2, .fixed), (0xA4#8, .zp, 3, .fixed), (0xB4#8, .zpx, 4, .fixed), (0xAC#8, .abs, 4, .fixed),
      (0xBC#8, .abx, 4, .pageCross)]
    (fun i s t => t.y = operandByte i s ∧ NZOf (operandByte i s) t ∧ Frame [.y] [.z, .n] s t ∧ t.pc = s.pc ∧ SameMemoryBut [] s t)

/-- STX and STY in every mode: the byte at EA is the register where the plain memory takes the write; every other byte of memory,
every register and every flag is unchanged; PC is the address after the instruction. In full as `AccessRuleOf` says it. (R324,
R325) -/
def Obligations.StoreIndexRegisters : Prop :=
  AccessRuleOf .stx
    [(0x86#8, .zp, 3, .fixed), (0x96#8, .zpy, 4, .fixed), (0x8E#8, .abs, 4, .fixed)]
    (fun i s t => ∀ m, i.memMode = some m →
      Stored (pointerReads m) (effectiveAddress m s) s.x s t ∧ SameMemoryBut [effectiveAddress m s] s t ∧ Frame [] [] s t ∧ t.pc = s.pc) ∧
  AccessRuleOf .sty
    [(0x84#8, .zp, 3, .fixed), (0x94#8, .zpx, 4, .fixed), (0x8C#8, .abs, 4, .fixed)]
    (fun i s t => ∀ m, i.memMode = some m →
      Stored (pointerReads m) (effectiveAddress m s) s.y s t ∧ SameMemoryBut [effectiveAddress m s] s t ∧ Frame [] [] s t ∧ t.pc = s.pc)

/-- STA in every mode: the byte at EA is A where the plain memory takes the write; every other byte of memory, every register and
every flag is unchanged; PC is the address after the instruction; EA is not read; the indexed forms count by STORE_PAGE_PENALTY.
In full as `AccessRuleOf` says it. (R323) The spec marks as its own decisions or inferences, in rules this rests on: R323
(decision D18). -/
def Obligations.StoreAccumulator : Prop :=
  AccessRuleOf .sta
    [(0x85#8, .zp, 3, .fixed), (0x95#8, .zpx, 4, .fixed), (0x8D#8, .abs, 4, .fixed), (0x9D#8, .abx, 5, .store),
      (0x99#8, .aby, 5, .store), (0x81#8, .izx, 6, .fixed), (0x91#8, .izy, 6, .store)]
    (fun i s t => ∀ m, i.memMode = some m →
      Stored (pointerReads m) (effectiveAddress m s) s.a s t ∧ SameMemoryBut [effectiveAddress m s] s t ∧ Frame [] [] s t ∧ t.pc = s.pc)

/-- ADC in every mode with D = 0: A takes A + M + C modulo 256, C is set exactly where that sum exceeds 0xFF, V exactly where the
signed sum is outside -128 to 127, Z and N are those of the result; nothing else changes. In full as `AccessRuleOf` says it.
(R150, R155) -/
def Obligations.AddWithCarryBinary : Prop :=
  AccessRuleOf .adc
    [(0x69#8, .imm, 2, .fixed), (0x65#8, .zp, 3, .fixed), (0x75#8, .zpx, 4, .fixed), (0x6D#8, .abs, 4, .fixed),
      (0x7D#8, .abx, 4, .pageCross), (0x79#8, .aby, 4, .pageCross), (0x61#8, .izx, 6, .fixed), (0x71#8, .izy, 5, .pageCross)]
    (fun i s t => s.flag .d = false →
      (∀ n : Nat, n = s.a.toNat + (operandByte i s).toNat + carryNat (s.flag .c) → t.a = BitVec.ofNat 8 n ∧ t.flag .c = decide (n > 0xFF)) ∧
      (∀ n : Int, n = s.a.toInt + (operandByte i s).toInt + carryNat (s.flag .c) → t.flag .v = decide (n < -128 ∨ n > 127)) ∧
      NZOf t.a t ∧ Frame [.a] [.c, .z, .v, .n] s t ∧ t.pc = s.pc ∧ SameMemoryBut [] s t)

/-- SBC in every mode with D = 0: A takes A - M - (1 - C) modulo 256, C is set exactly where that is not negative (no borrow), V
exactly where the signed difference is outside -128 to 127, Z and N are those of the result; nothing else changes. In full as
`AccessRuleOf` says it. (R152, R155) -/
def Obligations.SubtractWithCarryBinary : Prop :=
  AccessRuleOf .sbc
    [(0xE9#8, .imm, 2, .fixed), (0xE5#8, .zp, 3, .fixed), (0xF5#8, .zpx, 4, .fixed), (0xED#8, .abs, 4, .fixed),
      (0xFD#8, .abx, 4, .pageCross), (0xF9#8, .aby, 4, .pageCross), (0xE1#8, .izx, 6, .fixed), (0xF1#8, .izy, 5, .pageCross)]
    (fun i s t => s.flag .d = false →
      (∀ n : Int, n = (s.a.toNat : Int) - (operandByte i s).toNat - (1 - carryNat (s.flag .c)) → t.a = BitVec.ofInt 8 n ∧ t.flag .c = decide (n ≥ 0)) ∧
      (∀ n : Int, n = s.a.toInt - (operandByte i s).toInt - (1 - carryNat (s.flag .c)) → t.flag .v = decide (n < -128 ∨ n > 127)) ∧
      NZOf t.a t ∧ Frame [.a] [.c, .z, .v, .n] s t ∧ t.pc = s.pc ∧ SameMemoryBut [] s t)

/-- ADC in every mode with D = 1 and DECIMAL_MODEL nmos: with al the corrected low digit sum, s the corrected and t the uncorrected
high sum of R151, A is s modulo 256, C says s >= 0x100, Z says that the binary sum A + M + C is 0 modulo 256, N is bit 7 of t and
V says t is outside -128 to 127; nothing else changes. In full as `AccessRuleOf` says it. (R151) The spec marks as its own
decisions or inferences, in rules this rests on: R151 (decision D17). -/
def Obligations.AddDecimalNmos : Prop :=
  AccessRuleOf .adc
    [(0x69#8, .imm, 2, .fixed), (0x65#8, .zp, 3, .fixed), (0x75#8, .zpx, 4, .fixed), (0x6D#8, .abs, 4, .fixed),
      (0x7D#8, .abx, 4, .pageCross), (0x79#8, .aby, 4, .pageCross), (0x61#8, .izx, 6, .fixed), (0x71#8, .izy, 5, .pageCross)]
    (fun i s t => s.flag .d = true → s.params.decimalModel = .nmos →
      ∀ al0 al s0 s1 : Nat, ∀ u : Int,
        al0 = (s.a &&& 0x0F#8).toNat + (operandByte i s &&& 0x0F#8).toNat + carryNat (s.flag .c) →
        al = (if al0 ≥ 0x0A then (al0 + 0x06) % 16 + 0x10 else al0) →
        s0 = (s.a &&& 0xF0#8).toNat + (operandByte i s &&& 0xF0#8).toNat + al →
        s1 = (if s0 ≥ 0xA0 then s0 + 0x60 else s0) →
        u = (s.a &&& 0xF0#8).toInt + (operandByte i s &&& 0xF0#8).toInt + al →
        t.a = BitVec.ofNat 8 s1 ∧ t.flag .c = decide (s1 ≥ 0x100) ∧
        t.flag .z = decide ((s.a.toNat + (operandByte i s).toNat + carryNat (s.flag .c)) % 256 = 0) ∧
        t.flag .n = (BitVec.ofInt 8 u).getLsbD 7 ∧ t.flag .v = decide (u < -128 ∨ u > 127) ∧ Frame [.a] [.c, .z, .v, .n] s t ∧ t.pc = s.pc ∧ SameMemoryBut [] s t)

/-- SBC in every mode with D = 1 and DECIMAL_MODEL nmos: with al the corrected low digit difference and s the corrected high
difference of R153, A is s modulo 256; C, Z, V and N are those of the binary difference A - M - (1 - C); nothing else changes. In
full as `AccessRuleOf` says it. (R153) The spec marks as its own decisions or inferences, in rules this rests on: R153 (decision
D17). -/
def Obligations.SubtractDecimalNmos : Prop :=
  AccessRuleOf .sbc
    [(0xE9#8, .imm, 2, .fixed), (0xE5#8, .zp, 3, .fixed), (0xF5#8, .zpx, 4, .fixed), (0xED#8, .abs, 4, .fixed),
      (0xFD#8, .abx, 4, .pageCross), (0xF9#8, .aby, 4, .pageCross), (0xE1#8, .izx, 6, .fixed), (0xF1#8, .izy, 5, .pageCross)]
    (fun i s t => s.flag .d = true → s.params.decimalModel = .nmos →
      (∀ al0 al s0 s1 : Int,
        al0 = ((s.a &&& 0x0F#8).toNat : Int) - (operandByte i s &&& 0x0F#8).toNat + carryNat (s.flag .c) - 1 →
        al = (if al0 < 0 then (al0 - 0x06) % 16 - 0x10 else al0) →
        s0 = ((s.a &&& 0xF0#8).toNat : Int) - (operandByte i s &&& 0xF0#8).toNat + al →
        s1 = (if s0 < 0 then s0 - 0x60 else s0) → t.a = BitVec.ofInt 8 s1) ∧
      (∀ n : Int, n = (s.a.toNat : Int) - (operandByte i s).toNat - (1 - carryNat (s.flag .c)) →
        t.flag .c = decide (n ≥ 0) ∧ NZOf (BitVec.ofInt 8 n) t) ∧
      (∀ n : Int, n = s.a.toInt - (operandByte i s).toInt - (1 - carryNat (s.flag .c)) → t.flag .v = decide (n < -128 ∨ n > 127)) ∧
      Frame [.a] [.c, .z, .v, .n] s t ∧ t.pc = s.pc ∧ SameMemoryBut [] s t)

/-- For packed BCD bytes a and m with values 10 * high digit + low digit: the ADC result is packed BCD and its value plus 100 for a
carry is the sum of the values and the carry in; the SBC result is packed BCD and its value less 100 for a borrow is the
difference of the values less the borrow in. (R151, R153) The spec marks as its own decisions or inferences, in rules this rests
on: R151 (decision D17); R153 (decision D17). -/
def Obligations.DecimalResultsOfBcdOperandsAreDecimal : Prop :=
  ∀ (a m : Byte) (c : Bool), isBcd a = true → isBcd m = true →
    ∀ value : Byte → Nat, (∀ v, value v = 10 * (v.toNat / 16) + v.toNat % 16) →
      isBcd (addDecimal a m c).value = true ∧
      value (addDecimal a m c).value + 100 * carryNat (addDecimal a m c).c = value a + value m + carryNat c ∧
      isBcd (subDecimal a m c).value = true ∧
      (value (subDecimal a m c).value : Int) - 100 * (1 - carryNat (subDecimal a m c).c) = value a - value m - (1 - carryNat c)

/-- ADC and SBC in every mode with D = 1 and DECIMAL_MODEL valid_bcd_only complete; where A and M are packed BCD, A and C are those of
the nmos algorithm; N, V and Z (and A and C where an operand is not BCD) are free values (log 14), of which nothing is said; I, D,
B, every other register and memory do not change. In binary mode the option has no effect (AddWithCarryBinary,
SubtractWithCarryBinary). In full as `AccessRuleOf` says it. (R154) The spec marks as its own decisions or inferences, in rules
this rests on: R154 (decision D17). -/
def Obligations.DecimalUnderValidBcdOnly : Prop :=
  AccessRuleOf .adc
    [(0x69#8, .imm, 2, .fixed), (0x65#8, .zp, 3, .fixed), (0x75#8, .zpx, 4, .fixed), (0x6D#8, .abs, 4, .fixed),
      (0x7D#8, .abx, 4, .pageCross), (0x79#8, .aby, 4, .pageCross), (0x61#8, .izx, 6, .fixed), (0x71#8, .izy, 5, .pageCross)]
    (fun i s t => s.flag .d = true → s.params.decimalModel = .validBcdOnly →
      (isBcd s.a = true → isBcd (operandByte i s) = true →
        t.a = (addDecimal s.a (operandByte i s) (s.flag .c)).value ∧ t.flag .c = (addDecimal s.a (operandByte i s) (s.flag .c)).c) ∧
      (∀ r, r ≠ .a → t.reg r = s.reg r) ∧ (∀ f, f ∉ [.c, .z, .v, .n] → t.flag f = s.flag f) ∧
      t.runState = s.runState ∧ t.irqLine = s.irqLine ∧ t.nmiPending = s.nmiPending ∧ t.params = s.params ∧ t.pc = s.pc ∧ SameMemoryBut [] s t) ∧
  AccessRuleOf .sbc
    [(0xE9#8, .imm, 2, .fixed), (0xE5#8, .zp, 3, .fixed), (0xF5#8, .zpx, 4, .fixed), (0xED#8, .abs, 4, .fixed),
      (0xFD#8, .abx, 4, .pageCross), (0xF9#8, .aby, 4, .pageCross), (0xE1#8, .izx, 6, .fixed), (0xF1#8, .izy, 5, .pageCross)]
    (fun i s t => s.flag .d = true → s.params.decimalModel = .validBcdOnly →
      (isBcd s.a = true → isBcd (operandByte i s) = true →
        t.a = (subDecimal s.a (operandByte i s) (s.flag .c)).value ∧ t.flag .c = (subDecimal s.a (operandByte i s) (s.flag .c)).c) ∧
      (∀ r, r ≠ .a → t.reg r = s.reg r) ∧ (∀ f, f ∉ [.c, .z, .v, .n] → t.flag f = s.flag f) ∧
      t.runState = s.runState ∧ t.irqLine = s.irqLine ∧ t.nmiPending = s.nmiPending ∧ t.params = s.params ∧ t.pc = s.pc ∧ SameMemoryBut [] s t)

/-- AND, ORA, EOR in every mode: A takes A and, or, exclusive-or M; Z and N are those of the result; nothing else changes, memory
included. In full as `AccessRuleOf` says it. (R171, R172, R173) -/
def Obligations.LogicalOperations : Prop :=
  AccessRuleOf .and
    [(0x29#8, .imm, 2, .fixed), (0x25#8, .zp, 3, .fixed), (0x35#8, .zpx, 4, .fixed), (0x2D#8, .abs, 4, .fixed),
      (0x3D#8, .abx, 4, .pageCross), (0x39#8, .aby, 4, .pageCross), (0x21#8, .izx, 6, .fixed), (0x31#8, .izy, 5, .pageCross)]
    (fun i s t => t.a = s.a &&& operandByte i s ∧ NZOf t.a t ∧ Frame [.a] [.z, .n] s t ∧ t.pc = s.pc ∧ SameMemoryBut [] s t) ∧
  AccessRuleOf .ora
    [(0x09#8, .imm, 2, .fixed), (0x05#8, .zp, 3, .fixed), (0x15#8, .zpx, 4, .fixed), (0x0D#8, .abs, 4, .fixed),
      (0x1D#8, .abx, 4, .pageCross), (0x19#8, .aby, 4, .pageCross), (0x01#8, .izx, 6, .fixed), (0x11#8, .izy, 5, .pageCross)]
    (fun i s t => t.a = s.a ||| operandByte i s ∧ NZOf t.a t ∧ Frame [.a] [.z, .n] s t ∧ t.pc = s.pc ∧ SameMemoryBut [] s t) ∧
  AccessRuleOf .eor
    [(0x49#8, .imm, 2, .fixed), (0x45#8, .zp, 3, .fixed), (0x55#8, .zpx, 4, .fixed), (0x4D#8, .abs, 4, .fixed),
      (0x5D#8, .abx, 4, .pageCross), (0x59#8, .aby, 4, .pageCross), (0x41#8, .izx, 6, .fixed), (0x51#8, .izy, 5, .pageCross)]
    (fun i s t => t.a = s.a ^^^ operandByte i s ∧ NZOf t.a t ∧ Frame [.a] [.z, .n] s t ∧ t.pc = s.pc ∧ SameMemoryBut [] s t)

/-- BIT in both modes: Z says whether A & M is 0, N is bit 7 of M and V bit 6; no register, no other flag and no byte of memory
changes. In full as `AccessRuleOf` says it. (R174) -/
def Obligations.BitTest : Prop :=
  AccessRuleOf .bit
    [(0x24#8, .zp, 3, .fixed), (0x2C#8, .abs, 4, .fixed)]
    (fun i s t => t.flag .z = ((s.a &&& operandByte i s) == 0) ∧ t.flag .n = (operandByte i s).getLsbD 7 ∧ t.flag .v = (operandByte i s).getLsbD 6 ∧
      Frame [] [.z, .n, .v] s t ∧ t.pc = s.pc ∧ SameMemoryBut [] s t)

/-- ASL, LSR, ROL, ROR in every mode: the result is 2v, v / 2, 2v + C and v / 2 + 128 C modulo 256 of the operand byte v; C takes the
bit shifted out (bit 7 or bit 0), Z and N are those of the result; in Accumulator mode A takes it, in a memory mode the byte at EA
does after one read and one write; nothing else changes. In full as `AccessRuleOf` says it. (R175, R176, R177, R178) -/
def Obligations.ShiftsAndRotates : Prop :=
  AccessRuleOf .asl
    [(0x0A#8, .acc, 2, .fixed), (0x06#8, .zp, 5, .fixed), (0x16#8, .zpx, 6, .fixed), (0x0E#8, .abs, 6, .fixed),
      (0x1E#8, .abx, 7, .fixed)]
    (fun i s t => ∀ r, r = BitVec.ofNat 8 (2 * (operandByte i s).toNat) →
      t.flag .c = (operandByte i s).getLsbD 7 ∧ NZOf r t ∧ t.pc = s.pc ∧
      (i.memMode = none → t.a = r ∧ Frame [.a] [.c, .z, .n] s t ∧ SameMemoryBut [] s t) ∧
      ∀ m, i.memMode = some m → Frame [] [.c, .z, .n] s t ∧ SameMemoryBut [effectiveAddress m s] s t ∧
        Stored (pointerReads m + 1) (effectiveAddress m s) r s t) ∧
  AccessRuleOf .lsr
    [(0x4A#8, .acc, 2, .fixed), (0x46#8, .zp, 5, .fixed), (0x56#8, .zpx, 6, .fixed), (0x4E#8, .abs, 6, .fixed),
      (0x5E#8, .abx, 7, .fixed)]
    (fun i s t => ∀ r, r = BitVec.ofNat 8 ((operandByte i s).toNat / 2) →
      t.flag .c = (operandByte i s).getLsbD 0 ∧ NZOf r t ∧ t.pc = s.pc ∧
      (i.memMode = none → t.a = r ∧ Frame [.a] [.c, .z, .n] s t ∧ SameMemoryBut [] s t) ∧
      ∀ m, i.memMode = some m → Frame [] [.c, .z, .n] s t ∧ SameMemoryBut [effectiveAddress m s] s t ∧
        Stored (pointerReads m + 1) (effectiveAddress m s) r s t) ∧
  AccessRuleOf .rol
    [(0x2A#8, .acc, 2, .fixed), (0x26#8, .zp, 5, .fixed), (0x36#8, .zpx, 6, .fixed), (0x2E#8, .abs, 6, .fixed),
      (0x3E#8, .abx, 7, .fixed)]
    (fun i s t => ∀ r, r = BitVec.ofNat 8 (2 * (operandByte i s).toNat + carryNat (s.flag .c)) →
      t.flag .c = (operandByte i s).getLsbD 7 ∧ NZOf r t ∧ t.pc = s.pc ∧
      (i.memMode = none → t.a = r ∧ Frame [.a] [.c, .z, .n] s t ∧ SameMemoryBut [] s t) ∧
      ∀ m, i.memMode = some m → Frame [] [.c, .z, .n] s t ∧ SameMemoryBut [effectiveAddress m s] s t ∧
        Stored (pointerReads m + 1) (effectiveAddress m s) r s t) ∧
  AccessRuleOf .ror
    [(0x6A#8, .acc, 2, .fixed), (0x66#8, .zp, 5, .fixed), (0x76#8, .zpx, 6, .fixed), (0x6E#8, .abs, 6, .fixed),
      (0x7E#8, .abx, 7, .fixed)]
    (fun i s t => ∀ r, r = BitVec.ofNat 8 ((operandByte i s).toNat / 2 + 128 * carryNat (s.flag .c)) →
      t.flag .c = (operandByte i s).getLsbD 0 ∧ NZOf r t ∧ t.pc = s.pc ∧
      (i.memMode = none → t.a = r ∧ Frame [.a] [.c, .z, .n] s t ∧ SameMemoryBut [] s t) ∧
      ∀ m, i.memMode = some m → Frame [] [.c, .z, .n] s t ∧ SameMemoryBut [effectiveAddress m s] s t ∧
        Stored (pointerReads m + 1) (effectiveAddress m s) r s t)

/-- CMP, CPX, CPY in every mode: C says that the register is at least M, unsigned; Z and N are those of the 8-bit difference, so Z
says that they are equal; V, D and every register are unchanged, D having no effect. In full as `AccessRuleOf` says it. (R200,
R201, R202, R203) -/
def Obligations.Compares : Prop :=
  AccessRuleOf .cmp
    [(0xC9#8, .imm, 2, .fixed), (0xC5#8, .zp, 3, .fixed), (0xD5#8, .zpx, 4, .fixed), (0xCD#8, .abs, 4, .fixed),
      (0xDD#8, .abx, 4, .pageCross), (0xD9#8, .aby, 4, .pageCross), (0xC1#8, .izx, 6, .fixed), (0xD1#8, .izy, 5, .pageCross)]
    (fun i s t => t.flag .c = decide ((operandByte i s).toNat ≤ s.a.toNat) ∧ NZOf (s.a - operandByte i s) t ∧ (t.flag .z = true ↔ s.a = operandByte i s) ∧
      Frame [] [.c, .z, .n] s t ∧ t.pc = s.pc ∧ SameMemoryBut [] s t) ∧
  AccessRuleOf .cpx
    [(0xE0#8, .imm, 2, .fixed), (0xE4#8, .zp, 3, .fixed), (0xEC#8, .abs, 4, .fixed)]
    (fun i s t => t.flag .c = decide ((operandByte i s).toNat ≤ s.x.toNat) ∧ NZOf (s.x - operandByte i s) t ∧ (t.flag .z = true ↔ s.x = operandByte i s) ∧
      Frame [] [.c, .z, .n] s t ∧ t.pc = s.pc ∧ SameMemoryBut [] s t) ∧
  AccessRuleOf .cpy
    [(0xC0#8, .imm, 2, .fixed), (0xC4#8, .zp, 3, .fixed), (0xCC#8, .abs, 4, .fixed)]
    (fun i s t => t.flag .c = decide ((operandByte i s).toNat ≤ s.y.toNat) ∧ NZOf (s.y - operandByte i s) t ∧ (t.flag .z = true ↔ s.y = operandByte i s) ∧
      Frame [] [.c, .z, .n] s t ∧ t.pc = s.pc ∧ SameMemoryBut [] s t)

/-- BCC, BCS, BEQ, BNE, BMI, BPL, BVC, BVS: PC takes the address of the next instruction plus the sign-extended offset modulo 65536
where the named flag has the named value, else it stays; 2 cycles not taken, 3 taken in the page of the next instruction, 4 to
another page; no register, flag or byte of memory changes, and no access is made. In full as `RuleOf` says it. (R220, R221, R222,
R223, R224, R225, R226, R227, R228) The spec marks as its own decisions or inferences, in rules this rests on: R220 (decision
D21). -/
def Obligations.Branches : Prop :=
  RuleOf .bcc
    [(0x90#8, .rel, 2, .branch)]
    (fun i s t => ∀ oo, i.operand = .relative oo →
      t.pc = (if s.flag .c = false then branchDestination oo s else s.pc) ∧ Frame [] [] s t ∧ SameMemoryBut [] s t) ∧
  RuleOf .bcs
    [(0xB0#8, .rel, 2, .branch)]
    (fun i s t => ∀ oo, i.operand = .relative oo →
      t.pc = (if s.flag .c = true then branchDestination oo s else s.pc) ∧ Frame [] [] s t ∧ SameMemoryBut [] s t) ∧
  RuleOf .beq
    [(0xF0#8, .rel, 2, .branch)]
    (fun i s t => ∀ oo, i.operand = .relative oo →
      t.pc = (if s.flag .z = true then branchDestination oo s else s.pc) ∧ Frame [] [] s t ∧ SameMemoryBut [] s t) ∧
  RuleOf .bne
    [(0xD0#8, .rel, 2, .branch)]
    (fun i s t => ∀ oo, i.operand = .relative oo →
      t.pc = (if s.flag .z = false then branchDestination oo s else s.pc) ∧ Frame [] [] s t ∧ SameMemoryBut [] s t) ∧
  RuleOf .bmi
    [(0x30#8, .rel, 2, .branch)]
    (fun i s t => ∀ oo, i.operand = .relative oo →
      t.pc = (if s.flag .n = true then branchDestination oo s else s.pc) ∧ Frame [] [] s t ∧ SameMemoryBut [] s t) ∧
  RuleOf .bpl
    [(0x10#8, .rel, 2, .branch)]
    (fun i s t => ∀ oo, i.operand = .relative oo →
      t.pc = (if s.flag .n = false then branchDestination oo s else s.pc) ∧ Frame [] [] s t ∧ SameMemoryBut [] s t) ∧
  RuleOf .bvc
    [(0x50#8, .rel, 2, .branch)]
    (fun i s t => ∀ oo, i.operand = .relative oo →
      t.pc = (if s.flag .v = false then branchDestination oo s else s.pc) ∧ Frame [] [] s t ∧ SameMemoryBut [] s t) ∧
  RuleOf .bvs
    [(0x70#8, .rel, 2, .branch)]
    (fun i s t => ∀ oo, i.operand = .relative oo →
      t.pc = (if s.flag .v = true then branchDestination oo s else s.pc) ∧ Frame [] [] s t ∧ SameMemoryBut [] s t)

/-- PHA: A is written at 0x0100 + SP, SP goes down by one modulo 256, and nothing else changes. PLA: SP goes up by one modulo 256, A
takes the byte there, Z and N are its own, and nothing else changes. In full as `AccessRuleOf` says it. (R240, R242) -/
def Obligations.AccumulatorOnTheStack : Prop :=
  AccessRuleOf .pha
    [(0x48#8, .imp, 3, .fixed)]
    (fun _ s t => t.sp = s.sp - 1 ∧ Stored 0 (stackLocation s.sp.toNat) s.a s t ∧
      SameMemoryBut [stackLocation s.sp.toNat] s t ∧ Frame [.sp] [] s t ∧ t.pc = s.pc) ∧
  AccessRuleOf .pla
    [(0x68#8, .imp, 4, .fixed)]
    (fun _ s t => t.sp = s.sp + 1 ∧ t.a = s.answer 0 (stackLocation (s.sp.toNat + 1)) ∧ NZOf t.a t ∧
      Frame [.a, .sp] [.z, .n] s t ∧ t.pc = s.pc ∧ SameMemoryBut [] s t)

/-- PHP: P with bits 4 and 5 set is written at 0x0100 + SP, SP goes down by one modulo 256, and nothing else changes. PLP: SP goes up
by one modulo 256, the flags N, V, D, I, Z, C take the bits of the byte there, B keeps its value, U is 1, and nothing else
changes. In full as `AccessRuleOf` says it. (R241, R243) The spec marks as its own decisions or inferences, in rules this rests
on: R241 (decision D8); R243 (decisions D7, D13, derived). -/
def Obligations.StatusOnTheStack : Prop :=
  AccessRuleOf .php
    [(0x08#8, .imp, 3, .fixed)]
    (fun _ s t => t.sp = s.sp - 1 ∧ Stored 0 (stackLocation s.sp.toNat) (s.status ||| 0x30#8) s t ∧
      SameMemoryBut [stackLocation s.sp.toNat] s t ∧ Frame [.sp] [] s t ∧ t.pc = s.pc) ∧
  AccessRuleOf .plp
    [(0x28#8, .imp, 4, .fixed)]
    (fun _ s t => t.sp = s.sp + 1 ∧ (∀ f, f ∉ [.b, .u] → t.flag f = (s.answer 0 (stackLocation (s.sp.toNat + 1))).getLsbD f.bit) ∧ t.flag .u = true ∧
      Frame [.sp] [.n, .v, .d, .i, .z, .c] s t ∧ t.pc = s.pc ∧ SameMemoryBut [] s t)

/-- Over the plain memory, from every state with the invariant, PHP and then PLP complete and leave P, SP, A, X, Y and PC as they
were, with no byte of memory changed outside the stack location. (R42, R241, R243) The spec marks as its own decisions or
inferences, in rules this rests on: R42 (decision D7); R241 (decision D8); R243 (decisions D7, D13, derived). -/
def Obligations.PushThenPullStatus : Prop :=
  ∀ s : State, s.inv = true → s.plainBus →
    ∃ t u, exec .php s = .next t ∧ exec .plp t = .next u ∧ u.status = s.status ∧ Frame [] [] s u ∧ u.pc = s.pc ∧
      SameMemoryBut [stackLocation s.sp.toNat] s u

/-- JMP absolute: PC takes the operand. JMP indirect: PC takes the byte at the pointer plus 256 times the byte at the next address
inside the pointer's page. Nothing else changes. In full as `AccessRuleOf` says it. (R260) -/
def Obligations.Jumps : Prop :=
  AccessRuleOf .jmp
    [(0x4C#8, .abs, 3, .fixed), (0x6C#8, .ind, 5, .fixed)]
    (fun i s t => (∀ addr, i.operand = .source (.mem (.abs addr)) → t.pc = addr) ∧
      (∀ ptr, i.operand = .indirect ptr →
        t.pc.toNat = (s.answer 0 ptr).toNat + 256 * (s.answer 1 (indirectHigh ptr)).toNat) ∧
      Frame [] [] s t ∧ SameMemoryBut [] s t)

/-- JSR with PC after its three bytes: PC - 1 is pushed, high byte at SP, low byte below it, SP goes down by 2 modulo 256, PC takes
the operand; nothing else changes. In full as `AccessRuleOf` says it. (R261) The spec marks as its own decisions or inferences, in
rules this rests on: R261 (decision D25). -/
def Obligations.SubroutineCall : Prop :=
  AccessRuleOf .jsr
    [(0x20#8, .abs, 6, .fixed)]
    (fun i s t => ∀ addr, i.operand = .source (.mem (.abs addr)) →
      t.pc = addr ∧ t.sp = s.sp - 2 ∧ Stored 0 (stackLocation s.sp.toNat) (hiByte (s.pc - 1)) s t ∧
      Stored 1 (stackLocation (s.sp.toNat + 255)) (loByte (s.pc - 1)) s t ∧
      SameMemoryBut [stackLocation s.sp.toNat, stackLocation (s.sp.toNat + 255)] s t ∧ Frame [.sp] [] s t)

/-- RTS: SP goes up by 2 modulo 256 and PC takes the pulled word plus 1 modulo 65536; nothing else changes. In full as `AccessRuleOf`
says it. (R262) -/
def Obligations.SubroutineReturn : Prop :=
  AccessRuleOf .rts
    [(0x60#8, .imp, 6, .fixed)]
    (fun _ s t => t.sp = s.sp + 2 ∧
      t.pc.toNat = ((s.answer 0 (stackLocation (s.sp.toNat + 1))).toNat +
        256 * (s.answer 1 (stackLocation (s.sp.toNat + 2))).toNat + 1) % 65536 ∧
      Frame [.sp] [] s t ∧ SameMemoryBut [] s t)

/-- Over the plain memory, from every state with the invariant, JSR to any address and then RTS with the stack untouched between
complete and leave PC at the address after the JSR, SP, A, X, Y and the flags as they were. (R261, R262) The spec marks as its own
decisions or inferences, in rules this rests on: R261 (decision D25). -/
def Obligations.CallThenReturn : Prop :=
  ∀ (s : State) (addr : Word), s.inv = true → s.plainBus →
    ∃ t u, exec (.jsr addr) s = .next t ∧ t.pc = addr ∧ exec .rts t = .next u ∧ u.pc = s.pc ∧ Frame [] [] s u ∧
      SameMemoryBut [stackLocation s.sp.toNat, stackLocation (s.sp.toNat + 255)] s u

/-- BRK with PC after its opcode: PC + 1 is pushed high byte first, then P with bits 4 and 5 set, SP goes down by 3 modulo 256, I is
set, PC takes the word at 0xFFFE; whatever I was; A, X, Y, the other flags and the rest of memory do not change. In full as
`AccessRuleOf` says it. (R263) The spec marks as its own decisions or inferences, in rules this rests on: R263 (decisions D6, D7,
D9). -/
def Obligations.BreakInstruction : Prop :=
  AccessRuleOf .brk
    [(0x00#8, .imp, 7, .fixed)]
    (fun _ s t => t.sp = s.sp - 3 ∧ t.flag .i = true ∧ t.pc = mkWord (s.answer 4 0xFFFF#16) (s.answer 3 0xFFFE#16) ∧
      Stored 0 (stackLocation s.sp.toNat) (hiByte (s.pc + 1)) s t ∧
      Stored 1 (stackLocation (s.sp.toNat + 255)) (loByte (s.pc + 1)) s t ∧
      Stored 2 (stackLocation (s.sp.toNat + 254)) (s.status ||| 0x30#8) s t ∧
      SameMemoryBut [stackLocation s.sp.toNat, stackLocation (s.sp.toNat + 255), stackLocation (s.sp.toNat + 254)] s t ∧
      Frame [.sp] [.i] s t)

/-- RTI: the flags N, V, D, I, Z, C take the first pulled byte, B keeps its value and U is 1; PC takes the word of the second and
third pulled bytes; SP goes up by 3 modulo 256; nothing else changes. In full as `AccessRuleOf` says it. (R264) The spec marks as
its own decisions or inferences, in rules this rests on: R264 (decision D7, derived). -/
def Obligations.ReturnFromInterrupt : Prop :=
  AccessRuleOf .rti
    [(0x40#8, .imp, 6, .fixed)]
    (fun _ s t => t.sp = s.sp + 3 ∧ (∀ f, f ∉ [.b, .u] → t.flag f = (s.answer 0 (stackLocation (s.sp.toNat + 1))).getLsbD f.bit) ∧
      t.flag .u = true ∧
      t.pc = mkWord (s.answer 2 (stackLocation (s.sp.toNat + 3))) (s.answer 1 (stackLocation (s.sp.toNat + 2))) ∧
      Frame [.sp] [.n, .v, .d, .i, .z, .c] s t ∧ SameMemoryBut [] s t) ∧
  (∀ (s : State) (kind : InterruptKind), s.inv = true → s.plainBus →
    ∃ t u, interruptEntry kind s = .next t ∧ exec .rti t = .next u ∧ u.status = s.status ∧ u.sp = s.sp ∧ u.pc = s.pc ∧
      u.a = s.a ∧ u.x = s.x ∧ u.y = s.y) ∧
  ∀ s : State, s.inv = true → s.plainBus →
    ∃ t u, exec .brk s = .next t ∧ exec .rti t = .next u ∧ u.status = s.status ∧ u.sp = s.sp ∧ u.pc = s.pc + 1

/-- Each transfer copies its source to its destination; all but TXS set Z and N from the value; no other register, flag or byte
changes. In full as `RuleOf` says it. (R290, R291, R292, R293, R294, R295) -/
def Obligations.Transfers : Prop :=
  RuleOf .tax
    [(0xAA#8, .imp, 2, .fixed)]
    (fun _ s t => t.x = s.a ∧ NZOf s.a t ∧ Frame [.x] [.z, .n] s t ∧ t.pc = s.pc ∧ SameMemoryBut [] s t) ∧
  RuleOf .tay
    [(0xA8#8, .imp, 2, .fixed)]
    (fun _ s t => t.y = s.a ∧ NZOf s.a t ∧ Frame [.y] [.z, .n] s t ∧ t.pc = s.pc ∧ SameMemoryBut [] s t) ∧
  RuleOf .txa
    [(0x8A#8, .imp, 2, .fixed)]
    (fun _ s t => t.a = s.x ∧ NZOf s.x t ∧ Frame [.a] [.z, .n] s t ∧ t.pc = s.pc ∧ SameMemoryBut [] s t) ∧
  RuleOf .tya
    [(0x98#8, .imp, 2, .fixed)]
    (fun _ s t => t.a = s.y ∧ NZOf s.y t ∧ Frame [.a] [.z, .n] s t ∧ t.pc = s.pc ∧ SameMemoryBut [] s t) ∧
  RuleOf .tsx
    [(0xBA#8, .imp, 2, .fixed)]
    (fun _ s t => t.x = s.sp ∧ NZOf s.sp t ∧ Frame [.x] [.z, .n] s t ∧ t.pc = s.pc ∧ SameMemoryBut [] s t) ∧
  RuleOf .txs
    [(0x9A#8, .imp, 2, .fixed)]
    (fun _ s t => t.sp = s.x ∧ Frame [.sp] [] s t ∧ t.pc = s.pc ∧ SameMemoryBut [] s t)

/-- INX and INY add 1, DEX and DEY subtract 1 modulo 256; Z and N are those of the result; no other register, flag (C and V included)
or byte changes. In full as `RuleOf` says it. (R296, R297, R298, R299) -/
def Obligations.RegisterIncrements : Prop :=
  RuleOf .inx
    [(0xE8#8, .imp, 2, .fixed)]
    (fun _ s t => t.x.toNat = (s.x.toNat + 1) % 256 ∧ NZOf t.x t ∧ Frame [.x] [.z, .n] s t ∧ t.pc = s.pc ∧ SameMemoryBut [] s t) ∧
  RuleOf .iny
    [(0xC8#8, .imp, 2, .fixed)]
    (fun _ s t => t.y.toNat = (s.y.toNat + 1) % 256 ∧ NZOf t.y t ∧ Frame [.y] [.z, .n] s t ∧ t.pc = s.pc ∧ SameMemoryBut [] s t) ∧
  RuleOf .dex
    [(0xCA#8, .imp, 2, .fixed)]
    (fun _ s t => t.x.toNat = (s.x.toNat + 255) % 256 ∧ NZOf t.x t ∧ Frame [.x] [.z, .n] s t ∧ t.pc = s.pc ∧ SameMemoryBut [] s t) ∧
  RuleOf .dey
    [(0x88#8, .imp, 2, .fixed)]
    (fun _ s t => t.y.toNat = (s.y.toNat + 255) % 256 ∧ NZOf t.y t ∧ Frame [.y] [.z, .n] s t ∧ t.pc = s.pc ∧ SameMemoryBut [] s t)

/-- INC and DEC in every mode: the byte at EA takes its value plus or minus 1 modulo 256; Z and N are those of the result; no
register, no other flag (D has no effect) and no other byte changes. In full as `AccessRuleOf` says it. (R300, R301) -/
def Obligations.MemoryIncrements : Prop :=
  AccessRuleOf .inc
    [(0xE6#8, .zp, 5, .fixed), (0xF6#8, .zpx, 6, .fixed), (0xEE#8, .abs, 6, .fixed), (0xFE#8, .abx, 7, .fixed)]
    (fun i s t => ∀ m r, i.memMode = some m → r = BitVec.ofNat 8 ((operandByte i s).toNat + 1) →
      NZOf r t ∧ Stored (pointerReads m + 1) (effectiveAddress m s) r s t ∧ SameMemoryBut [effectiveAddress m s] s t ∧
      Frame [] [.z, .n] s t ∧ t.pc = s.pc) ∧
  AccessRuleOf .dec
    [(0xC6#8, .zp, 5, .fixed), (0xD6#8, .zpx, 6, .fixed), (0xCE#8, .abs, 6, .fixed), (0xDE#8, .abx, 7, .fixed)]
    (fun i s t => ∀ m r, i.memMode = some m → r = BitVec.ofNat 8 ((operandByte i s).toNat + 255) →
      NZOf r t ∧ Stored (pointerReads m + 1) (effectiveAddress m s) r s t ∧ SameMemoryBut [effectiveAddress m s] s t ∧
      Frame [] [.z, .n] s t ∧ t.pc = s.pc)

/-- Each of these flag instructions writes the flag it names and nothing else; NOP changes no register, flag or byte and leaves PC
after it; no illegal opcode executes as a NOP. In full as `RuleOf` says it. (R340, R341, R343, R344, R345, R347) -/
def Obligations.FlagInstructions : Prop :=
  RuleOf .clc
    [(0x18#8, .imp, 2, .fixed)]
    (fun _ s t => t.flag .c = false ∧ Frame [] [.c] s t ∧ t.pc = s.pc ∧ SameMemoryBut [] s t) ∧
  RuleOf .cld
    [(0xD8#8, .imp, 2, .fixed)]
    (fun _ s t => t.flag .d = false ∧ Frame [] [.d] s t ∧ t.pc = s.pc ∧ SameMemoryBut [] s t) ∧
  RuleOf .clv
    [(0xB8#8, .imp, 2, .fixed)]
    (fun _ s t => t.flag .v = false ∧ Frame [] [.v] s t ∧ t.pc = s.pc ∧ SameMemoryBut [] s t) ∧
  RuleOf .sec
    [(0x38#8, .imp, 2, .fixed)]
    (fun _ s t => t.flag .c = true ∧ Frame [] [.c] s t ∧ t.pc = s.pc ∧ SameMemoryBut [] s t) ∧
  RuleOf .sed
    [(0xF8#8, .imp, 2, .fixed)]
    (fun _ s t => t.flag .d = true ∧ Frame [] [.d] s t ∧ t.pc = s.pc ∧ SameMemoryBut [] s t) ∧
  RuleOf .nop
    [(0xEA#8, .imp, 2, .fixed)]
    (fun _ s t => Frame [] [] s t ∧ t.pc = s.pc ∧ SameMemoryBut [] s t) ∧
  ∀ op : Byte, op ∈ illegalOpcodes → ∀ s t, exec (.illegal op) s ≠ .next t

/-- CLI clears and SEI sets I and nothing else changes. For a running core with the IRQ line asserted and no pending NMI: after CLI,
SEI, PLP or RTI leaves I = 0 the very next step is the IRQ entry of the state it left, and where it leaves I = 1 the next step is
no interrupt entry: it reads the byte at PC. The entry after CLI pushes the address of the next instruction. In full as `RuleOf`
says it. (R342, R346, R457) The spec marks as its own decisions or inferences, in rules this rests on: R342 (decision D13); R457
(decision D13). -/
def Obligations.InterruptMaskInstructions : Prop :=
  RuleOf .cli
    [(0x58#8, .imp, 2, .fixed)]
    (fun _ s t => t.flag .i = false ∧ Frame [] [.i] s t ∧ t.pc = s.pc ∧ SameMemoryBut [] s t) ∧
  RuleOf .sei
    [(0x78#8, .imp, 2, .fixed)]
    (fun _ s t => t.flag .i = true ∧ Frame [] [.i] s t ∧ t.pc = s.pc ∧ SameMemoryBut [] s t) ∧
  ∀ (i : Instr) (s t : State), i = .cli ∨ i = .sei ∨ i = .plp ∨ i = .rti →
    s.runState = .running → s.irqLine = true → s.nmiPending = false → exec i s = .next t →
    (t.flag .i = false → step t = interruptEntry .irq (t.beginOp .step)) ∧
    (t.flag .i = true → ∀ u, step t = .next u →
      ∃ es e, u.bus.history = es ++ e :: .start .step :: t.bus.history ∧ e.access = some (.read, t.pc)) ∧
    (i = .cli → s.inv = true → s.busAccepts 5 = true → ∃ u, step t = .next u ∧ Stored 0 (stackLocation s.sp.toNat) (hiByte t.pc) t u ∧
      Stored 1 (stackLocation (s.sp.toNat + 255)) (loByte t.pc) t u)

/-- set_irq(level) leaves the state as it was but for irq_line; nmi() leaves it as it was but for nmi_pending, which is set; two calls
of nmi() are one request. (R402, R403, R415) The spec marks as its own decisions or inferences, in rules this rests on: R402
(decision D10); R403 (decision D10); R415 (decisions D10, D23). -/
def Obligations.InterruptInputs : Prop :=
  ∀ (s : State) (level : Bool),
    hostSetIrq level s = { s with irqLine := level } ∧ hostNmi s = { s with nmiPending := true } ∧ hostNmi (hostNmi s) = hostNmi s
end

