-- ==== Sys2Proof/Laws/State.lean ====
section
/-! SUPPORT. What each update of the state does to each field, true by rfl. -/

namespace Sys2Proof.Machine.State

variable (s : State)

@[simp] theorem setA_a (v : Byte) : (s.setA v).a = v := rfl
@[simp] theorem setA_x (v : Byte) : (s.setA v).x = s.x := rfl
@[simp] theorem setA_y (v : Byte) : (s.setA v).y = s.y := rfl
@[simp] theorem setA_sp (v : Byte) : (s.setA v).sp = s.sp := rfl
@[simp] theorem setA_pc (v : Byte) : (s.setA v).pc = s.pc := rfl
@[simp] theorem setA_p (v : Byte) : (s.setA v).p = s.p := rfl
@[simp] theorem setA_runState (v : Byte) : (s.setA v).runState = s.runState := rfl
@[simp] theorem setA_irqLine (v : Byte) : (s.setA v).irqLine = s.irqLine := rfl
@[simp] theorem setA_nmiPending (v : Byte) : (s.setA v).nmiPending = s.nmiPending := rfl
@[simp] theorem setA_bus (v : Byte) : (s.setA v).bus = s.bus := rfl
@[simp] theorem setA_params (v : Byte) : (s.setA v).params = s.params := rfl
@[simp] theorem setA_lastCycles (v : Byte) : (s.setA v).lastCycles = s.lastCycles := rfl
@[simp] theorem setA_freeCount (v : Byte) : (s.setA v).freeCount = s.freeCount := rfl
@[simp] theorem setA_status (v : Byte) : (s.setA v).status = s.status := rfl
@[simp] theorem setA_flag (v : Byte) (g : Flag) : (s.setA v).flag g = s.flag g := rfl
@[simp] theorem setA_byteAt (v : Byte) (k : Word) : (s.setA v).byteAt k = s.byteAt k := rfl
@[simp] theorem setA_nextReply (v : Byte) : (s.setA v).nextReply = s.nextReply := rfl
@[simp] theorem setA_answer (v : Byte) (k : Nat) (addr : Word) : (s.setA v).answer k addr = s.answer k addr := rfl
@[simp] theorem setA_storesAt (v : Byte) (k : Nat) : (s.setA v).storesAt k = s.storesAt k := rfl
@[simp] theorem setA_busAccepts (v : Byte) (k : Nat) : (s.setA v).busAccepts k = s.busAccepts k := rfl

@[simp] theorem setX_a (v : Byte) : (s.setX v).a = s.a := rfl
@[simp] theorem setX_x (v : Byte) : (s.setX v).x = v := rfl
@[simp] theorem setX_y (v : Byte) : (s.setX v).y = s.y := rfl
@[simp] theorem setX_sp (v : Byte) : (s.setX v).sp = s.sp := rfl
@[simp] theorem setX_pc (v : Byte) : (s.setX v).pc = s.pc := rfl
@[simp] theorem setX_p (v : Byte) : (s.setX v).p = s.p := rfl
@[simp] theorem setX_runState (v : Byte) : (s.setX v).runState = s.runState := rfl
@[simp] theorem setX_irqLine (v : Byte) : (s.setX v).irqLine = s.irqLine := rfl
@[simp] theorem setX_nmiPending (v : Byte) : (s.setX v).nmiPending = s.nmiPending := rfl
@[simp] theorem setX_bus (v : Byte) : (s.setX v).bus = s.bus := rfl
@[simp] theorem setX_params (v : Byte) : (s.setX v).params = s.params := rfl
@[simp] theorem setX_lastCycles (v : Byte) : (s.setX v).lastCycles = s.lastCycles := rfl
@[simp] theorem setX_freeCount (v : Byte) : (s.setX v).freeCount = s.freeCount := rfl
@[simp] theorem setX_status (v : Byte) : (s.setX v).status = s.status := rfl
@[simp] theorem setX_flag (v : Byte) (g : Flag) : (s.setX v).flag g = s.flag g := rfl
@[simp] theorem setX_byteAt (v : Byte) (k : Word) : (s.setX v).byteAt k = s.byteAt k := rfl
@[simp] theorem setX_nextReply (v : Byte) : (s.setX v).nextReply = s.nextReply := rfl
@[simp] theorem setX_answer (v : Byte) (k : Nat) (addr : Word) : (s.setX v).answer k addr = s.answer k addr := rfl
@[simp] theorem setX_storesAt (v : Byte) (k : Nat) : (s.setX v).storesAt k = s.storesAt k := rfl
@[simp] theorem setX_busAccepts (v : Byte) (k : Nat) : (s.setX v).busAccepts k = s.busAccepts k := rfl

@[simp] theorem setY_a (v : Byte) : (s.setY v).a = s.a := rfl
@[simp] theorem setY_x (v : Byte) : (s.setY v).x = s.x := rfl
@[simp] theorem setY_y (v : Byte) : (s.setY v).y = v := rfl
@[simp] theorem setY_sp (v : Byte) : (s.setY v).sp = s.sp := rfl
@[simp] theorem setY_pc (v : Byte) : (s.setY v).pc = s.pc := rfl
@[simp] theorem setY_p (v : Byte) : (s.setY v).p = s.p := rfl
@[simp] theorem setY_runState (v : Byte) : (s.setY v).runState = s.runState := rfl
@[simp] theorem setY_irqLine (v : Byte) : (s.setY v).irqLine = s.irqLine := rfl
@[simp] theorem setY_nmiPending (v : Byte) : (s.setY v).nmiPending = s.nmiPending := rfl
@[simp] theorem setY_bus (v : Byte) : (s.setY v).bus = s.bus := rfl
@[simp] theorem setY_params (v : Byte) : (s.setY v).params = s.params := rfl
@[simp] theorem setY_lastCycles (v : Byte) : (s.setY v).lastCycles = s.lastCycles := rfl
@[simp] theorem setY_freeCount (v : Byte) : (s.setY v).freeCount = s.freeCount := rfl
@[simp] theorem setY_status (v : Byte) : (s.setY v).status = s.status := rfl
@[simp] theorem setY_flag (v : Byte) (g : Flag) : (s.setY v).flag g = s.flag g := rfl
@[simp] theorem setY_byteAt (v : Byte) (k : Word) : (s.setY v).byteAt k = s.byteAt k := rfl
@[simp] theorem setY_nextReply (v : Byte) : (s.setY v).nextReply = s.nextReply := rfl
@[simp] theorem setY_answer (v : Byte) (k : Nat) (addr : Word) : (s.setY v).answer k addr = s.answer k addr := rfl
@[simp] theorem setY_storesAt (v : Byte) (k : Nat) : (s.setY v).storesAt k = s.storesAt k := rfl
@[simp] theorem setY_busAccepts (v : Byte) (k : Nat) : (s.setY v).busAccepts k = s.busAccepts k := rfl

@[simp] theorem setSp_a (v : Byte) : (s.setSp v).a = s.a := rfl
@[simp] theorem setSp_x (v : Byte) : (s.setSp v).x = s.x := rfl
@[simp] theorem setSp_y (v : Byte) : (s.setSp v).y = s.y := rfl
@[simp] theorem setSp_sp (v : Byte) : (s.setSp v).sp = v := rfl
@[simp] theorem setSp_pc (v : Byte) : (s.setSp v).pc = s.pc := rfl
@[simp] theorem setSp_p (v : Byte) : (s.setSp v).p = s.p := rfl
@[simp] theorem setSp_runState (v : Byte) : (s.setSp v).runState = s.runState := rfl
@[simp] theorem setSp_irqLine (v : Byte) : (s.setSp v).irqLine = s.irqLine := rfl
@[simp] theorem setSp_nmiPending (v : Byte) : (s.setSp v).nmiPending = s.nmiPending := rfl
@[simp] theorem setSp_bus (v : Byte) : (s.setSp v).bus = s.bus := rfl
@[simp] theorem setSp_params (v : Byte) : (s.setSp v).params = s.params := rfl
@[simp] theorem setSp_lastCycles (v : Byte) : (s.setSp v).lastCycles = s.lastCycles := rfl
@[simp] theorem setSp_freeCount (v : Byte) : (s.setSp v).freeCount = s.freeCount := rfl
@[simp] theorem setSp_status (v : Byte) : (s.setSp v).status = s.status := rfl
@[simp] theorem setSp_flag (v : Byte) (g : Flag) : (s.setSp v).flag g = s.flag g := rfl
@[simp] theorem setSp_byteAt (v : Byte) (k : Word) : (s.setSp v).byteAt k = s.byteAt k := rfl
@[simp] theorem setSp_nextReply (v : Byte) : (s.setSp v).nextReply = s.nextReply := rfl
@[simp] theorem setSp_answer (v : Byte) (k : Nat) (addr : Word) : (s.setSp v).answer k addr = s.answer k addr := rfl
@[simp] theorem setSp_storesAt (v : Byte) (k : Nat) : (s.setSp v).storesAt k = s.storesAt k := rfl
@[simp] theorem setSp_busAccepts (v : Byte) (k : Nat) : (s.setSp v).busAccepts k = s.busAccepts k := rfl

@[simp] theorem setPc_a (v : Word) : (s.setPc v).a = s.a := rfl
@[simp] theorem setPc_x (v : Word) : (s.setPc v).x = s.x := rfl
@[simp] theorem setPc_y (v : Word) : (s.setPc v).y = s.y := rfl
@[simp] theorem setPc_sp (v : Word) : (s.setPc v).sp = s.sp := rfl
@[simp] theorem setPc_pc (v : Word) : (s.setPc v).pc = v := rfl
@[simp] theorem setPc_p (v : Word) : (s.setPc v).p = s.p := rfl
@[simp] theorem setPc_runState (v : Word) : (s.setPc v).runState = s.runState := rfl
@[simp] theorem setPc_irqLine (v : Word) : (s.setPc v).irqLine = s.irqLine := rfl
@[simp] theorem setPc_nmiPending (v : Word) : (s.setPc v).nmiPending = s.nmiPending := rfl
@[simp] theorem setPc_bus (v : Word) : (s.setPc v).bus = s.bus := rfl
@[simp] theorem setPc_params (v : Word) : (s.setPc v).params = s.params := rfl
@[simp] theorem setPc_lastCycles (v : Word) : (s.setPc v).lastCycles = s.lastCycles := rfl
@[simp] theorem setPc_freeCount (v : Word) : (s.setPc v).freeCount = s.freeCount := rfl
@[simp] theorem setPc_status (v : Word) : (s.setPc v).status = s.status := rfl
@[simp] theorem setPc_flag (v : Word) (g : Flag) : (s.setPc v).flag g = s.flag g := rfl
@[simp] theorem setPc_byteAt (v : Word) (k : Word) : (s.setPc v).byteAt k = s.byteAt k := rfl
@[simp] theorem setPc_nextReply (v : Word) : (s.setPc v).nextReply = s.nextReply := rfl
@[simp] theorem setPc_answer (v : Word) (k : Nat) (addr : Word) : (s.setPc v).answer k addr = s.answer k addr := rfl
@[simp] theorem setPc_storesAt (v : Word) (k : Nat) : (s.setPc v).storesAt k = s.storesAt k := rfl
@[simp] theorem setPc_busAccepts (v : Word) (k : Nat) : (s.setPc v).busAccepts k = s.busAccepts k := rfl

@[simp] theorem setStatus_a (v : Byte) : (s.setStatus v).a = s.a := rfl
@[simp] theorem setStatus_x (v : Byte) : (s.setStatus v).x = s.x := rfl
@[simp] theorem setStatus_y (v : Byte) : (s.setStatus v).y = s.y := rfl
@[simp] theorem setStatus_sp (v : Byte) : (s.setStatus v).sp = s.sp := rfl
@[simp] theorem setStatus_pc (v : Byte) : (s.setStatus v).pc = s.pc := rfl
@[simp] theorem setStatus_p (v : Byte) : (s.setStatus v).p = v ||| 0x20#8 := rfl
@[simp] theorem setStatus_runState (v : Byte) : (s.setStatus v).runState = s.runState := rfl
@[simp] theorem setStatus_irqLine (v : Byte) : (s.setStatus v).irqLine = s.irqLine := rfl
@[simp] theorem setStatus_nmiPending (v : Byte) : (s.setStatus v).nmiPending = s.nmiPending := rfl
@[simp] theorem setStatus_bus (v : Byte) : (s.setStatus v).bus = s.bus := rfl
@[simp] theorem setStatus_params (v : Byte) : (s.setStatus v).params = s.params := rfl
@[simp] theorem setStatus_lastCycles (v : Byte) : (s.setStatus v).lastCycles = s.lastCycles := rfl
@[simp] theorem setStatus_freeCount (v : Byte) : (s.setStatus v).freeCount = s.freeCount := rfl
@[simp] theorem setStatus_byteAt (v : Byte) (k : Word) : (s.setStatus v).byteAt k = s.byteAt k := rfl
@[simp] theorem setStatus_nextReply (v : Byte) : (s.setStatus v).nextReply = s.nextReply := rfl
@[simp] theorem setStatus_answer (v : Byte) (k : Nat) (addr : Word) : (s.setStatus v).answer k addr = s.answer k addr := rfl
@[simp] theorem setStatus_storesAt (v : Byte) (k : Nat) : (s.setStatus v).storesAt k = s.storesAt k := rfl
@[simp] theorem setStatus_busAccepts (v : Byte) (k : Nat) : (s.setStatus v).busAccepts k = s.busAccepts k := rfl

@[simp] theorem setRunState_a (r : RunState) : (s.setRunState r).a = s.a := rfl
@[simp] theorem setRunState_x (r : RunState) : (s.setRunState r).x = s.x := rfl
@[simp] theorem setRunState_y (r : RunState) : (s.setRunState r).y = s.y := rfl
@[simp] theorem setRunState_sp (r : RunState) : (s.setRunState r).sp = s.sp := rfl
@[simp] theorem setRunState_pc (r : RunState) : (s.setRunState r).pc = s.pc := rfl
@[simp] theorem setRunState_p (r : RunState) : (s.setRunState r).p = s.p := rfl
@[simp] theorem setRunState_runState (r : RunState) : (s.setRunState r).runState = r := rfl
@[simp] theorem setRunState_irqLine (r : RunState) : (s.setRunState r).irqLine = s.irqLine := rfl
@[simp] theorem setRunState_nmiPending (r : RunState) : (s.setRunState r).nmiPending = s.nmiPending := rfl
@[simp] theorem setRunState_bus (r : RunState) : (s.setRunState r).bus = s.bus := rfl
@[simp] theorem setRunState_params (r : RunState) : (s.setRunState r).params = s.params := rfl
@[simp] theorem setRunState_lastCycles (r : RunState) : (s.setRunState r).lastCycles = s.lastCycles := rfl
@[simp] theorem setRunState_freeCount (r : RunState) : (s.setRunState r).freeCount = s.freeCount := rfl
@[simp] theorem setRunState_status (r : RunState) : (s.setRunState r).status = s.status := rfl
@[simp] theorem setRunState_flag (r : RunState) (g : Flag) : (s.setRunState r).flag g = s.flag g := rfl
@[simp] theorem setRunState_byteAt (r : RunState) (k : Word) : (s.setRunState r).byteAt k = s.byteAt k := rfl
@[simp] theorem setRunState_nextReply (r : RunState) : (s.setRunState r).nextReply = s.nextReply := rfl
@[simp] theorem setRunState_answer (r : RunState) (k : Nat) (addr : Word) : (s.setRunState r).answer k addr = s.answer k addr := rfl
@[simp] theorem setRunState_storesAt (r : RunState) (k : Nat) : (s.setRunState r).storesAt k = s.storesAt k := rfl
@[simp] theorem setRunState_busAccepts (r : RunState) (k : Nat) : (s.setRunState r).busAccepts k = s.busAccepts k := rfl

@[simp] theorem setIrqLine_a (l : Bool) : (s.setIrqLine l).a = s.a := rfl
@[simp] theorem setIrqLine_x (l : Bool) : (s.setIrqLine l).x = s.x := rfl
@[simp] theorem setIrqLine_y (l : Bool) : (s.setIrqLine l).y = s.y := rfl
@[simp] theorem setIrqLine_sp (l : Bool) : (s.setIrqLine l).sp = s.sp := rfl
@[simp] theorem setIrqLine_pc (l : Bool) : (s.setIrqLine l).pc = s.pc := rfl
@[simp] theorem setIrqLine_p (l : Bool) : (s.setIrqLine l).p = s.p := rfl
@[simp] theorem setIrqLine_runState (l : Bool) : (s.setIrqLine l).runState = s.runState := rfl
@[simp] theorem setIrqLine_irqLine (l : Bool) : (s.setIrqLine l).irqLine = l := rfl
@[simp] theorem setIrqLine_nmiPending (l : Bool) : (s.setIrqLine l).nmiPending = s.nmiPending := rfl
@[simp] theorem setIrqLine_bus (l : Bool) : (s.setIrqLine l).bus = s.bus := rfl
@[simp] theorem setIrqLine_params (l : Bool) : (s.setIrqLine l).params = s.params := rfl
@[simp] theorem setIrqLine_lastCycles (l : Bool) : (s.setIrqLine l).lastCycles = s.lastCycles := rfl
@[simp] theorem setIrqLine_freeCount (l : Bool) : (s.setIrqLine l).freeCount = s.freeCount := rfl
@[simp] theorem setIrqLine_status (l : Bool) : (s.setIrqLine l).status = s.status := rfl
@[simp] theorem setIrqLine_flag (l : Bool) (g : Flag) : (s.setIrqLine l).flag g = s.flag g := rfl
@[simp] theorem setIrqLine_byteAt (l : Bool) (k : Word) : (s.setIrqLine l).byteAt k = s.byteAt k := rfl
@[simp] theorem setIrqLine_nextReply (l : Bool) : (s.setIrqLine l).nextReply = s.nextReply := rfl
@[simp] theorem setIrqLine_answer (l : Bool) (k : Nat) (addr : Word) : (s.setIrqLine l).answer k addr = s.answer k addr := rfl
@[simp] theorem setIrqLine_storesAt (l : Bool) (k : Nat) : (s.setIrqLine l).storesAt k = s.storesAt k := rfl
@[simp] theorem setIrqLine_busAccepts (l : Bool) (k : Nat) : (s.setIrqLine l).busAccepts k = s.busAccepts k := rfl

@[simp] theorem setNmiPending_a (l : Bool) : (s.setNmiPending l).a = s.a := rfl
@[simp] theorem setNmiPending_x (l : Bool) : (s.setNmiPending l).x = s.x := rfl
@[simp] theorem setNmiPending_y (l : Bool) : (s.setNmiPending l).y = s.y := rfl
@[simp] theorem setNmiPending_sp (l : Bool) : (s.setNmiPending l).sp = s.sp := rfl
@[simp] theorem setNmiPending_pc (l : Bool) : (s.setNmiPending l).pc = s.pc := rfl
@[simp] theorem setNmiPending_p (l : Bool) : (s.setNmiPending l).p = s.p := rfl
@[simp] theorem setNmiPending_runState (l : Bool) : (s.setNmiPending l).runState = s.runState := rfl
@[simp] theorem setNmiPending_irqLine (l : Bool) : (s.setNmiPending l).irqLine = s.irqLine := rfl
@[simp] theorem setNmiPending_nmiPending (l : Bool) : (s.setNmiPending l).nmiPending = l := rfl
@[simp] theorem setNmiPending_bus (l : Bool) : (s.setNmiPending l).bus = s.bus := rfl
@[simp] theorem setNmiPending_params (l : Bool) : (s.setNmiPending l).params = s.params := rfl
@[simp] theorem setNmiPending_lastCycles (l : Bool) : (s.setNmiPending l).lastCycles = s.lastCycles := rfl
@[simp] theorem setNmiPending_freeCount (l : Bool) : (s.setNmiPending l).freeCount = s.freeCount := rfl
@[simp] theorem setNmiPending_status (l : Bool) : (s.setNmiPending l).status = s.status := rfl
@[simp] theorem setNmiPending_flag (l : Bool) (g : Flag) : (s.setNmiPending l).flag g = s.flag g := rfl
@[simp] theorem setNmiPending_byteAt (l : Bool) (k : Word) : (s.setNmiPending l).byteAt k = s.byteAt k := rfl
@[simp] theorem setNmiPending_nextReply (l : Bool) : (s.setNmiPending l).nextReply = s.nextReply := rfl
@[simp] theorem setNmiPending_answer (l : Bool) (k : Nat) (addr : Word) : (s.setNmiPending l).answer k addr = s.answer k addr := rfl
@[simp] theorem setNmiPending_storesAt (l : Bool) (k : Nat) : (s.setNmiPending l).storesAt k = s.storesAt k := rfl
@[simp] theorem setNmiPending_busAccepts (l : Bool) (k : Nat) : (s.setNmiPending l).busAccepts k = s.busAccepts k := rfl

@[simp] theorem setLastCycles_a (n : Option Nat) : (s.setLastCycles n).a = s.a := rfl
@[simp] theorem setLastCycles_x (n : Option Nat) : (s.setLastCycles n).x = s.x := rfl
@[simp] theorem setLastCycles_y (n : Option Nat) : (s.setLastCycles n).y = s.y := rfl
@[simp] theorem setLastCycles_sp (n : Option Nat) : (s.setLastCycles n).sp = s.sp := rfl
@[simp] theorem setLastCycles_pc (n : Option Nat) : (s.setLastCycles n).pc = s.pc := rfl
@[simp] theorem setLastCycles_p (n : Option Nat) : (s.setLastCycles n).p = s.p := rfl
@[simp] theorem setLastCycles_runState (n : Option Nat) : (s.setLastCycles n).runState = s.runState := rfl
@[simp] theorem setLastCycles_irqLine (n : Option Nat) : (s.setLastCycles n).irqLine = s.irqLine := rfl
@[simp] theorem setLastCycles_nmiPending (n : Option Nat) : (s.setLastCycles n).nmiPending = s.nmiPending := rfl
@[simp] theorem setLastCycles_bus (n : Option Nat) : (s.setLastCycles n).bus = s.bus := rfl
@[simp] theorem setLastCycles_params (n : Option Nat) : (s.setLastCycles n).params = s.params := rfl
@[simp] theorem setLastCycles_lastCycles (n : Option Nat) : (s.setLastCycles n).lastCycles = n := rfl
@[simp] theorem setLastCycles_freeCount (n : Option Nat) : (s.setLastCycles n).freeCount = s.freeCount := rfl
@[simp] theorem setLastCycles_status (n : Option Nat) : (s.setLastCycles n).status = s.status := rfl
@[simp] theorem setLastCycles_flag (n : Option Nat) (g : Flag) : (s.setLastCycles n).flag g = s.flag g := rfl
@[simp] theorem setLastCycles_byteAt (n : Option Nat) (k : Word) : (s.setLastCycles n).byteAt k = s.byteAt k := rfl
@[simp] theorem setLastCycles_nextReply (n : Option Nat) : (s.setLastCycles n).nextReply = s.nextReply := rfl
@[simp] theorem setLastCycles_answer (n : Option Nat) (k : Nat) (addr : Word) : (s.setLastCycles n).answer k addr = s.answer k addr := rfl
@[simp] theorem setLastCycles_storesAt (n : Option Nat) (k : Nat) : (s.setLastCycles n).storesAt k = s.storesAt k := rfl
@[simp] theorem setLastCycles_busAccepts (n : Option Nat) (k : Nat) : (s.setLastCycles n).busAccepts k = s.busAccepts k := rfl

@[simp] theorem useFree_a (n : Nat) : (s.useFree n).a = s.a := rfl
@[simp] theorem useFree_x (n : Nat) : (s.useFree n).x = s.x := rfl
@[simp] theorem useFree_y (n : Nat) : (s.useFree n).y = s.y := rfl
@[simp] theorem useFree_sp (n : Nat) : (s.useFree n).sp = s.sp := rfl
@[simp] theorem useFree_pc (n : Nat) : (s.useFree n).pc = s.pc := rfl
@[simp] theorem useFree_p (n : Nat) : (s.useFree n).p = s.p := rfl
@[simp] theorem useFree_runState (n : Nat) : (s.useFree n).runState = s.runState := rfl
@[simp] theorem useFree_irqLine (n : Nat) : (s.useFree n).irqLine = s.irqLine := rfl
@[simp] theorem useFree_nmiPending (n : Nat) : (s.useFree n).nmiPending = s.nmiPending := rfl
@[simp] theorem useFree_bus (n : Nat) : (s.useFree n).bus = s.bus := rfl
@[simp] theorem useFree_params (n : Nat) : (s.useFree n).params = s.params := rfl
@[simp] theorem useFree_lastCycles (n : Nat) : (s.useFree n).lastCycles = s.lastCycles := rfl
@[simp] theorem useFree_freeCount (n : Nat) : (s.useFree n).freeCount = s.freeCount + n := rfl
@[simp] theorem useFree_status (n : Nat) : (s.useFree n).status = s.status := rfl
@[simp] theorem useFree_flag (n : Nat) (g : Flag) : (s.useFree n).flag g = s.flag g := rfl
@[simp] theorem useFree_byteAt (n : Nat) (k : Word) : (s.useFree n).byteAt k = s.byteAt k := rfl
@[simp] theorem useFree_nextReply (n : Nat) : (s.useFree n).nextReply = s.nextReply := rfl
@[simp] theorem useFree_answer (n : Nat) (k : Nat) (addr : Word) : (s.useFree n).answer k addr = s.answer k addr := rfl
@[simp] theorem useFree_storesAt (n : Nat) (k : Nat) : (s.useFree n).storesAt k = s.storesAt k := rfl
@[simp] theorem useFree_busAccepts (n : Nat) (k : Nat) : (s.useFree n).busAccepts k = s.busAccepts k := rfl

@[simp] theorem setFlag_a (f : Flag) (on : Bool) : (s.setFlag f on).a = s.a := rfl
@[simp] theorem setFlag_x (f : Flag) (on : Bool) : (s.setFlag f on).x = s.x := rfl
@[simp] theorem setFlag_y (f : Flag) (on : Bool) : (s.setFlag f on).y = s.y := rfl
@[simp] theorem setFlag_sp (f : Flag) (on : Bool) : (s.setFlag f on).sp = s.sp := rfl
@[simp] theorem setFlag_pc (f : Flag) (on : Bool) : (s.setFlag f on).pc = s.pc := rfl
@[simp] theorem setFlag_runState (f : Flag) (on : Bool) : (s.setFlag f on).runState = s.runState := rfl
@[simp] theorem setFlag_irqLine (f : Flag) (on : Bool) : (s.setFlag f on).irqLine = s.irqLine := rfl
@[simp] theorem setFlag_nmiPending (f : Flag) (on : Bool) : (s.setFlag f on).nmiPending = s.nmiPending := rfl
@[simp] theorem setFlag_bus (f : Flag) (on : Bool) : (s.setFlag f on).bus = s.bus := rfl
@[simp] theorem setFlag_params (f : Flag) (on : Bool) : (s.setFlag f on).params = s.params := rfl
@[simp] theorem setFlag_lastCycles (f : Flag) (on : Bool) : (s.setFlag f on).lastCycles = s.lastCycles := rfl
@[simp] theorem setFlag_freeCount (f : Flag) (on : Bool) : (s.setFlag f on).freeCount = s.freeCount := rfl
@[simp] theorem setFlag_byteAt (f : Flag) (on : Bool) (k : Word) : (s.setFlag f on).byteAt k = s.byteAt k := rfl
@[simp] theorem setFlag_nextReply (f : Flag) (on : Bool) : (s.setFlag f on).nextReply = s.nextReply := rfl
@[simp] theorem setFlag_answer (f : Flag) (on : Bool) (k : Nat) (addr : Word) : (s.setFlag f on).answer k addr = s.answer k addr := rfl
@[simp] theorem setFlag_storesAt (f : Flag) (on : Bool) (k : Nat) : (s.setFlag f on).storesAt k = s.storesAt k := rfl
@[simp] theorem setFlag_busAccepts (f : Flag) (on : Bool) (k : Nat) : (s.setFlag f on).busAccepts k = s.busAccepts k := rfl

@[simp] theorem setNZ_a (v : Byte) : (s.setNZ v).a = s.a := rfl
@[simp] theorem setNZ_x (v : Byte) : (s.setNZ v).x = s.x := rfl
@[simp] theorem setNZ_y (v : Byte) : (s.setNZ v).y = s.y := rfl
@[simp] theorem setNZ_sp (v : Byte) : (s.setNZ v).sp = s.sp := rfl
@[simp] theorem setNZ_pc (v : Byte) : (s.setNZ v).pc = s.pc := rfl
@[simp] theorem setNZ_runState (v : Byte) : (s.setNZ v).runState = s.runState := rfl
@[simp] theorem setNZ_irqLine (v : Byte) : (s.setNZ v).irqLine = s.irqLine := rfl
@[simp] theorem setNZ_nmiPending (v : Byte) : (s.setNZ v).nmiPending = s.nmiPending := rfl
@[simp] theorem setNZ_bus (v : Byte) : (s.setNZ v).bus = s.bus := rfl
@[simp] theorem setNZ_params (v : Byte) : (s.setNZ v).params = s.params := rfl
@[simp] theorem setNZ_lastCycles (v : Byte) : (s.setNZ v).lastCycles = s.lastCycles := rfl
@[simp] theorem setNZ_freeCount (v : Byte) : (s.setNZ v).freeCount = s.freeCount := rfl
@[simp] theorem setNZ_byteAt (v : Byte) (k : Word) : (s.setNZ v).byteAt k = s.byteAt k := rfl
@[simp] theorem setNZ_nextReply (v : Byte) : (s.setNZ v).nextReply = s.nextReply := rfl
@[simp] theorem setNZ_answer (v : Byte) (k : Nat) (addr : Word) : (s.setNZ v).answer k addr = s.answer k addr := rfl
@[simp] theorem setNZ_storesAt (v : Byte) (k : Nat) : (s.setNZ v).storesAt k = s.storesAt k := rfl
@[simp] theorem setNZ_busAccepts (v : Byte) (k : Nat) : (s.setNZ v).busAccepts k = s.busAccepts k := rfl

@[simp] theorem storeByte_a (addr : Word) (v : Byte) : (s.storeByte addr v).a = s.a := rfl
@[simp] theorem storeByte_x (addr : Word) (v : Byte) : (s.storeByte addr v).x = s.x := rfl
@[simp] theorem storeByte_y (addr : Word) (v : Byte) : (s.storeByte addr v).y = s.y := rfl
@[simp] theorem storeByte_sp (addr : Word) (v : Byte) : (s.storeByte addr v).sp = s.sp := rfl
@[simp] theorem storeByte_pc (addr : Word) (v : Byte) : (s.storeByte addr v).pc = s.pc := rfl
@[simp] theorem storeByte_p (addr : Word) (v : Byte) : (s.storeByte addr v).p = s.p := rfl
@[simp] theorem storeByte_runState (addr : Word) (v : Byte) : (s.storeByte addr v).runState = s.runState := rfl
@[simp] theorem storeByte_irqLine (addr : Word) (v : Byte) : (s.storeByte addr v).irqLine = s.irqLine := rfl
@[simp] theorem storeByte_nmiPending (addr : Word) (v : Byte) : (s.storeByte addr v).nmiPending = s.nmiPending := rfl
@[simp] theorem storeByte_params (addr : Word) (v : Byte) : (s.storeByte addr v).params = s.params := rfl
@[simp] theorem storeByte_lastCycles (addr : Word) (v : Byte) : (s.storeByte addr v).lastCycles = s.lastCycles := rfl
@[simp] theorem storeByte_freeCount (addr : Word) (v : Byte) : (s.storeByte addr v).freeCount = s.freeCount := rfl
@[simp] theorem storeByte_status (addr : Word) (v : Byte) : (s.storeByte addr v).status = s.status := rfl
@[simp] theorem storeByte_flag (addr : Word) (v : Byte) (g : Flag) : (s.storeByte addr v).flag g = s.flag g := rfl
@[simp] theorem storeByte_nextReply (addr : Word) (v : Byte) : (s.storeByte addr v).nextReply = s.nextReply := rfl

@[simp] theorem logAccess_a (e : BusEvent) : (s.logAccess e).a = s.a := rfl
@[simp] theorem logAccess_x (e : BusEvent) : (s.logAccess e).x = s.x := rfl
@[simp] theorem logAccess_y (e : BusEvent) : (s.logAccess e).y = s.y := rfl
@[simp] theorem logAccess_sp (e : BusEvent) : (s.logAccess e).sp = s.sp := rfl
@[simp] theorem logAccess_pc (e : BusEvent) : (s.logAccess e).pc = s.pc := rfl
@[simp] theorem logAccess_p (e : BusEvent) : (s.logAccess e).p = s.p := rfl
@[simp] theorem logAccess_runState (e : BusEvent) : (s.logAccess e).runState = s.runState := rfl
@[simp] theorem logAccess_irqLine (e : BusEvent) : (s.logAccess e).irqLine = s.irqLine := rfl
@[simp] theorem logAccess_nmiPending (e : BusEvent) : (s.logAccess e).nmiPending = s.nmiPending := rfl
@[simp] theorem logAccess_params (e : BusEvent) : (s.logAccess e).params = s.params := rfl
@[simp] theorem logAccess_lastCycles (e : BusEvent) : (s.logAccess e).lastCycles = s.lastCycles := rfl
@[simp] theorem logAccess_freeCount (e : BusEvent) : (s.logAccess e).freeCount = s.freeCount := rfl
@[simp] theorem logAccess_status (e : BusEvent) : (s.logAccess e).status = s.status := rfl
@[simp] theorem logAccess_flag (e : BusEvent) (g : Flag) : (s.logAccess e).flag g = s.flag g := rfl
@[simp] theorem logAccess_byteAt (e : BusEvent) (k : Word) : (s.logAccess e).byteAt k = s.byteAt k := rfl

@[simp] theorem beginOp_a (op : BusOp) : (s.beginOp op).a = s.a := rfl
@[simp] theorem beginOp_x (op : BusOp) : (s.beginOp op).x = s.x := rfl
@[simp] theorem beginOp_y (op : BusOp) : (s.beginOp op).y = s.y := rfl
@[simp] theorem beginOp_sp (op : BusOp) : (s.beginOp op).sp = s.sp := rfl
@[simp] theorem beginOp_pc (op : BusOp) : (s.beginOp op).pc = s.pc := rfl
@[simp] theorem beginOp_p (op : BusOp) : (s.beginOp op).p = s.p := rfl
@[simp] theorem beginOp_runState (op : BusOp) : (s.beginOp op).runState = s.runState := rfl
@[simp] theorem beginOp_irqLine (op : BusOp) : (s.beginOp op).irqLine = s.irqLine := rfl
@[simp] theorem beginOp_nmiPending (op : BusOp) : (s.beginOp op).nmiPending = s.nmiPending := rfl
@[simp] theorem beginOp_params (op : BusOp) : (s.beginOp op).params = s.params := rfl
@[simp] theorem beginOp_lastCycles (op : BusOp) : (s.beginOp op).lastCycles = s.lastCycles := rfl
@[simp] theorem beginOp_freeCount (op : BusOp) : (s.beginOp op).freeCount = s.freeCount := rfl
@[simp] theorem beginOp_status (op : BusOp) : (s.beginOp op).status = s.status := rfl
@[simp] theorem beginOp_flag (op : BusOp) (g : Flag) : (s.beginOp op).flag g = s.flag g := rfl
@[simp] theorem beginOp_byteAt (op : BusOp) (k : Word) : (s.beginOp op).byteAt k = s.byteAt k := rfl
@[simp] theorem beginOp_nextReply (op : BusOp) : (s.beginOp op).nextReply = s.nextReply := rfl

@[simp] theorem storeByte_mem (addr : Word) (v : Byte) : (s.storeByte addr v).bus.mem = Memory.write s.bus.mem addr.toNat v := rfl
@[simp] theorem storeByte_replies (addr : Word) (v : Byte) : (s.storeByte addr v).bus.replies = s.bus.replies := rfl
@[simp] theorem storeByte_history (addr : Word) (v : Byte) : (s.storeByte addr v).bus.history = s.bus.history := rfl
@[simp] theorem logAccess_mem (e : BusEvent) : (s.logAccess e).bus.mem = s.bus.mem := rfl
@[simp] theorem logAccess_replies (e : BusEvent) : (s.logAccess e).bus.replies = s.bus.replies.tail := rfl
@[simp] theorem logAccess_history (e : BusEvent) : (s.logAccess e).bus.history = e :: s.bus.history := rfl
@[simp] theorem beginOp_mem (op : BusOp) : (s.beginOp op).bus.mem = s.bus.mem := rfl
@[simp] theorem beginOp_replies (op : BusOp) : (s.beginOp op).bus.replies = s.bus.replies := rfl
@[simp] theorem beginOp_history (op : BusOp) : (s.beginOp op).bus.history = .start op :: s.bus.history := rfl

@[simp] theorem beginOp_answer (op : BusOp) (k : Nat) (addr : Word) : (s.beginOp op).answer k addr = s.answer k addr := rfl
@[simp] theorem beginOp_storesAt (op : BusOp) (k : Nat) : (s.beginOp op).storesAt k = s.storesAt k := rfl
@[simp] theorem beginOp_busAccepts (op : BusOp) (k : Nat) : (s.beginOp op).busAccepts k = s.busAccepts k := rfl
@[simp] theorem storeByte_storesAt (addr : Word) (v : Byte) (k : Nat) : (s.storeByte addr v).storesAt k = s.storesAt k := rfl
@[simp] theorem storeByte_busAccepts (addr : Word) (v : Byte) (k : Nat) : (s.storeByte addr v).busAccepts k = s.busAccepts k := rfl

/-- The stored P shows as the status with U at 1. -/
@[simp] theorem setStatus_status (v : Byte) : (s.setStatus v).status = v ||| 0x20#8 := by
  simp [status, BitVec.or_assoc]

@[simp] theorem status_or_u : s.status ||| 0x20#8 = s.status := by simp [status, BitVec.or_assoc]

/-- Writing back the status as read changes nothing a reader sees. -/
@[simp] theorem setStatus_self_status : (s.setStatus s.status).status = s.status := by simp

end Sys2Proof.Machine.State
end

