-- ==== Sys2Proof/Laws/Flags.lean ====
section
/-! SUPPORT. The flags: what each flag write does to each flag, and the flags of the status bytes that are pushed and pulled. -/

namespace Sys2Proof.Machine

theorem getLsbD_writeFlag (f g : Flag) (on : Bool) (p : Byte) :
    (writeFlag f on p).getLsbD g.bit = if g = f then on else p.getLsbD g.bit := by
  cases on <;> cases f <;> cases g <;> simp [writeFlag, Flag.bit]

theorem getLsbD_or_u (g : Flag) (p : Byte) : (p ||| 0x20#8).getLsbD g.bit = (p.getLsbD g.bit || decide (g = .u)) := by
  cases g <;> simp [Flag.bit]

/-- Two bytes with the same eight flags are the same byte. -/
theorem eq_of_flags {p q : Byte} (h : ∀ f : Flag, p.getLsbD f.bit = q.getLsbD f.bit) : p = q := by
  apply BitVec.eq_of_getLsbD_eq
  intro i hi
  have : i = 0 ∨ i = 1 ∨ i = 2 ∨ i = 3 ∨ i = 4 ∨ i = 5 ∨ i = 6 ∨ i = 7 := by omega
  rcases this with rfl | rfl | rfl | rfl | rfl | rfl | rfl | rfl
  exacts [h .c, h .z, h .i, h .d, h .b, h .u, h .v, h .n]

namespace State

variable (s : State)

theorem flag_setStatus (v : Byte) (g : Flag) : (s.setStatus v).flag g = (v.getLsbD g.bit || decide (g = .u)) := by
  rw [flag, setStatus_status, getLsbD_or_u]

/-- U reads 1 (R43). -/
@[simp] theorem flag_u : s.flag .u = true := by simp [flag, status, Flag.bit]

/-- A flag write changes that flag alone; U stays 1. -/
theorem flag_setFlag (f g : Flag) (on : Bool) : (s.setFlag f on).flag g = if g = f ∧ g ≠ .u then on else s.flag g := by
  rw [setFlag, flag_setStatus, getLsbD_writeFlag]
  by_cases hf : g = f
  · subst hf
    by_cases hu : g = .u
    · subst hu; simp
    · simp [hu]
  · by_cases hu : g = .u
    · subst hu; simp
    · simp [hu, hf, flag]

@[simp] theorem flag_setFlag_same {f : Flag} (h : f ≠ .u) (on : Bool) : (s.setFlag f on).flag f = on := by simp [flag_setFlag, h]

theorem flag_setFlag_ne {f g : Flag} (h : g ≠ f) (on : Bool) : (s.setFlag f on).flag g = s.flag g := by simp [flag_setFlag, h]

/-- `SetNZ` changes Z and N alone. -/
theorem flag_setNZ (v : Byte) (g : Flag) :
    (s.setNZ v).flag g = if g = .n then v.msb else if g = .z then v == 0 else s.flag g := by
  cases g <;> simp [setNZ, flag_setFlag]

/-- What ADC and SBC do to the flags. -/
theorem flag_setAluResult (r : AluResult) (g : Flag) :
    (s.setAluResult r).flag g =
      if g = .n then r.n else if g = .z then r.z else if g = .v then r.v else if g = .c then r.c else s.flag g := by
  cases g <;> simp [setAluResult, flag_setFlag]

/-- What a compare does to the flags (R200). -/
theorem flag_compare (r m : Byte) (g : Flag) :
    (s.compare r m).flag g =
      if g = .n then (r - m).msb else if g = .z then (r - m) == 0 else if g = .c then decide (m.toNat ≤ r.toNat) else s.flag g := by
  cases g <;> simp [compare, flag_setNZ, flag_setFlag]

@[simp] theorem setAluResult_a (r : AluResult) : (s.setAluResult r).a = r.value := rfl
@[simp] theorem setAluResult_x (r : AluResult) : (s.setAluResult r).x = s.x := rfl
@[simp] theorem setAluResult_y (r : AluResult) : (s.setAluResult r).y = s.y := rfl
@[simp] theorem setAluResult_sp (r : AluResult) : (s.setAluResult r).sp = s.sp := rfl
@[simp] theorem setAluResult_pc (r : AluResult) : (s.setAluResult r).pc = s.pc := rfl
@[simp] theorem setAluResult_runState (r : AluResult) : (s.setAluResult r).runState = s.runState := rfl
@[simp] theorem setAluResult_irqLine (r : AluResult) : (s.setAluResult r).irqLine = s.irqLine := rfl
@[simp] theorem setAluResult_nmiPending (r : AluResult) : (s.setAluResult r).nmiPending = s.nmiPending := rfl
@[simp] theorem setAluResult_bus (r : AluResult) : (s.setAluResult r).bus = s.bus := rfl
@[simp] theorem setAluResult_params (r : AluResult) : (s.setAluResult r).params = s.params := rfl
@[simp] theorem setAluResult_lastCycles (r : AluResult) : (s.setAluResult r).lastCycles = s.lastCycles := rfl
@[simp] theorem setAluResult_freeCount (r : AluResult) : (s.setAluResult r).freeCount = s.freeCount := rfl

@[simp] theorem compare_a (r m : Byte) : (s.compare r m).a = s.a := rfl
@[simp] theorem compare_x (r m : Byte) : (s.compare r m).x = s.x := rfl
@[simp] theorem compare_y (r m : Byte) : (s.compare r m).y = s.y := rfl
@[simp] theorem compare_sp (r m : Byte) : (s.compare r m).sp = s.sp := rfl
@[simp] theorem compare_pc (r m : Byte) : (s.compare r m).pc = s.pc := rfl
@[simp] theorem compare_runState (r m : Byte) : (s.compare r m).runState = s.runState := rfl
@[simp] theorem compare_irqLine (r m : Byte) : (s.compare r m).irqLine = s.irqLine := rfl
@[simp] theorem compare_nmiPending (r m : Byte) : (s.compare r m).nmiPending = s.nmiPending := rfl
@[simp] theorem compare_bus (r m : Byte) : (s.compare r m).bus = s.bus := rfl
@[simp] theorem compare_params (r m : Byte) : (s.compare r m).params = s.params := rfl
@[simp] theorem compare_lastCycles (r m : Byte) : (s.compare r m).lastCycles = s.lastCycles := rfl
@[simp] theorem compare_freeCount (r m : Byte) : (s.compare r m).freeCount = s.freeCount := rfl

@[simp] theorem compare_byteAt (r m : Byte) (k : Word) : (s.compare r m).byteAt k = s.byteAt k := rfl
@[simp] theorem setAluResult_byteAt (r : AluResult) (k : Word) : (s.setAluResult r).byteAt k = s.byteAt k := rfl

/-- Bit 5 of the stored P is 1 after any write of P. -/
@[simp] theorem setStatus_bit5 (v : Byte) : (s.setStatus v).p.getLsbD 5 = true := by simp

end State

/-- The flags PHP and BRK push: B and U set (R241, R263). -/
theorem getLsbD_softwareStatus (v : Byte) (g : Flag) :
    (softwareStatus v).getLsbD g.bit = (v.getLsbD g.bit || decide (g = .b) || decide (g = .u)) := by
  cases g <;> simp [softwareStatus, Flag.bit]

/-- The flags an interrupt pushes: B clear, U set (R404). -/
theorem getLsbD_hardwareStatus (v : Byte) (g : Flag) :
    (hardwareStatus v).getLsbD g.bit = ((v.getLsbD g.bit && decide (g ≠ .b)) || decide (g = .u)) := by
  cases g <;> simp [hardwareStatus, Flag.bit]

/-- The flags a pull leaves: B kept, U set, the others pulled (R243, R264). -/
theorem getLsbD_pulledStatus (v old : Byte) (g : Flag) :
    (pulledStatus v old).getLsbD g.bit = if g = .u then true else if g = .b then old.getLsbD g.bit else v.getLsbD g.bit := by
  cases g <;> simp [pulledStatus, Flag.bit]

theorem getLsbD_statusWithI (v : Byte) (g : Flag) : (statusWithI v).getLsbD g.bit = (v.getLsbD g.bit || decide (g = .i)) := by
  cases g <;> simp [statusWithI, Flag.bit]

end Sys2Proof.Machine
end

