-- ==== Sys2Proof/Laws/Memory.lean ====
section
/-! SUPPORT. The plain memory: a read after a write, the canonical form, and that equal readings mean equal memories. -/

namespace Sys2Proof.Machine.Memory

variable {m : List Host.Cell}

@[simp] theorem read_nil (k : Nat) : read [] k = unlisted := rfl

theorem read_of_all_gt (k : Nat) (h : m.all (fun c => decide (k < c.1)) = true) : read m k = unlisted := by
  induction m with
  | nil => rfl
  | cons c rest ih =>
    obtain ⟨j, w⟩ := c
    simp only [List.all_cons, Bool.and_eq_true, decide_eq_true_eq] at h
    rw [read, if_neg (by omega), ih h.2]

theorem wf_cons (k : Nat) (w : Byte) (rest : List Host.Cell) :
    wf ((k, w) :: rest) = true ↔
      k < 65536 ∧ w ≠ unlisted ∧ rest.all (fun c => decide (k < c.1)) = true ∧ wf rest = true := by
  simp [wf, and_assoc]

theorem all_gt_trans {j k : Nat} (hjk : j ≤ k) (h : m.all (fun c => decide (k < c.1)) = true) :
    m.all (fun c => decide (j < c.1)) = true := by
  simp only [List.all_eq_true, decide_eq_true_eq] at h ⊢
  exact fun c hc => Nat.lt_of_le_of_lt hjk (h c hc)

/-- A read of the address just written gives the byte written. -/
theorem read_write_same (h : wf m = true) (k : Nat) (v : Byte) : read (write m k v) k = v := by
  induction m with
  | nil => by_cases hv : v = unlisted <;> simp [write, hv, read]
  | cons c rest ih =>
    obtain ⟨j, w⟩ := c
    obtain ⟨-, -, hgt, hrest⟩ := (wf_cons j w rest).1 h
    rcases Nat.lt_trichotomy k j with hkj | rfl | hjk
    · by_cases hv : v = unlisted
      · subst hv
        rw [write, if_pos hkj, if_pos rfl, read, if_neg (by omega)]
        exact read_of_all_gt k (all_gt_trans (by omega) hgt)
      · rw [write, if_pos hkj, if_neg hv, read, if_pos rfl]
    · by_cases hv : v = unlisted
      · subst hv
        rw [write, if_neg (by omega), if_pos rfl, if_pos rfl]
        exact read_of_all_gt k hgt
      · rw [write, if_neg (by omega), if_pos rfl, if_neg hv, read, if_pos rfl]
    · rw [write, if_neg (by omega), if_neg (by omega), read, if_neg (by omega), ih hrest]

/-- A write leaves every other address as it was. -/
theorem read_write_ne (h : wf m = true) {k j : Nat} (hne : j ≠ k) (v : Byte) : read (write m k v) j = read m j := by
  induction m with
  | nil =>
    by_cases hv : v = unlisted
    · simp [write, hv]
    · simp [write, hv, read, hne.symm]
  | cons c rest ih =>
    obtain ⟨i, w⟩ := c
    obtain ⟨-, -, hgt, hrest⟩ := (wf_cons i w rest).1 h
    rcases Nat.lt_trichotomy k i with hki | rfl | hik
    · by_cases hv : v = unlisted
      · rw [write, if_pos hki, if_pos hv]
      · rw [write, if_pos hki, if_neg hv, read, if_neg hne.symm]
    · have hj : read ((k, w) :: rest) j = read rest j := by rw [read, if_neg hne.symm]
      by_cases hv : v = unlisted
      · rw [write, if_neg (by omega), if_pos rfl, if_pos hv, hj]
      · rw [write, if_neg (by omega), if_pos rfl, if_neg hv, read, if_neg hne.symm, hj]
    · rw [write, if_neg (by omega), if_neg (by omega), read, read, ih hrest]

theorem all_gt_write {i k : Nat} (hik : i < k) (v : Byte) (h : m.all (fun c => decide (i < c.1)) = true) :
    (write m k v).all (fun c => decide (i < c.1)) = true := by
  induction m with
  | nil => by_cases hv : v = unlisted <;> simp [write, hv, hik]
  | cons c rest ih =>
    obtain ⟨j, w⟩ := c
    simp only [List.all_cons, Bool.and_eq_true, decide_eq_true_eq] at h
    rw [write]
    split_ifs <;> try simp only [List.all_cons, Bool.and_eq_true, decide_eq_true_eq]
    exacts [h, ⟨hik, h⟩, h.2, ⟨hik, h.2⟩, ⟨h.1, ih h.2⟩]

/-- A write keeps the canonical form. -/
theorem wf_write (h : wf m = true) {k : Nat} (hk : k < 65536) (v : Byte) : wf (write m k v) = true := by
  induction m with
  | nil => by_cases hv : v = unlisted <;> simp [write, hv, wf, hk]
  | cons c rest ih =>
    obtain ⟨j, w⟩ := c
    obtain ⟨hj, hw, hgt, hrest⟩ := (wf_cons j w rest).1 h
    rcases Nat.lt_trichotomy k j with hkj | rfl | hjk
    · by_cases hv : v = unlisted
      · rwa [write, if_pos hkj, if_pos hv]
      · rw [write, if_pos hkj, if_neg hv, wf_cons]
        refine ⟨hk, hv, ?_, h⟩
        simp only [List.all_cons, Bool.and_eq_true, decide_eq_true_eq]
        exact ⟨hkj, all_gt_trans (by omega) hgt⟩
    · by_cases hv : v = unlisted
      · rwa [write, if_neg (by omega), if_pos rfl, if_pos hv]
      · rw [write, if_neg (by omega), if_pos rfl, if_neg hv, wf_cons]
        exact ⟨hk, hv, hgt, hrest⟩
    · rw [write, if_neg (by omega), if_neg (by omega), wf_cons]
      exact ⟨hj, hw, all_gt_write hjk v hgt, ih hrest⟩

end Sys2Proof.Machine.Memory

namespace Sys2Proof.Machine.State

variable (s : State)

theorem storeByte_byteAt_same (h : Memory.wf s.bus.mem = true) (addr : Word) (v : Byte) : (s.storeByte addr v).byteAt addr = v :=
  Memory.read_write_same h addr.toNat v

theorem storeByte_byteAt_ne (h : Memory.wf s.bus.mem = true) {addr b : Word} (hne : b ≠ addr) (v : Byte) :
    (s.storeByte addr v).byteAt b = s.byteAt b :=
  Memory.read_write_ne h (fun he => hne (BitVec.eq_of_toNat_eq he)) v

theorem storeByte_wf (h : Memory.wf s.bus.mem = true) (addr : Word) (v : Byte) : Memory.wf (s.storeByte addr v).bus.mem = true :=
  Memory.wf_write h addr.isLt v

end Sys2Proof.Machine.State
end

