-- ==== Sys2Proof/Laws/Ops.lean ====
section
/-! SUPPORT. The shared operations: what each answers, once, in the form later proofs cite. -/

namespace Sys2Proof

/-! ### Words and bytes -/

theorem getLsbD_mkWord (hi lo : Byte) (i : Nat) :
    (mkWord hi lo).getLsbD i = if i < 8 then lo.getLsbD i else hi.getLsbD (i - 8) := by
  by_cases h : i < 8
  · simp [mkWord, h]; omega
  · by_cases h16 : i < 16
    · simp [mkWord, h, h16, BitVec.getLsbD_of_ge lo i (by omega)]
    · simp [mkWord, h, h16, BitVec.getLsbD_of_ge hi (i - 8) (by omega)]

@[simp] theorem loByte_mkWord (hi lo : Byte) : loByte (mkWord hi lo) = lo := by
  apply BitVec.eq_of_getLsbD_eq
  intro i h
  simp [loByte, getLsbD_mkWord, h]

@[simp] theorem hiByte_mkWord (hi lo : Byte) : hiByte (mkWord hi lo) = hi := by
  apply BitVec.eq_of_getLsbD_eq
  intro i h
  simp [hiByte, getLsbD_mkWord, h]

@[simp] theorem mkWord_bytes (w : Word) : mkWord (hiByte w) (loByte w) = w := by
  apply BitVec.eq_of_getLsbD_eq
  intro i h
  rw [getLsbD_mkWord]
  split_ifs with hi
  · simp [loByte, hi]
  · have h8 : i - 8 < 8 := by omega
    have he : 8 + (i - 8) = i := by omega
    simp [hiByte, h8, he]

/-- A word is given by its two bytes. -/
theorem mkWord_inj {a b c d : Byte} : mkWord a b = mkWord c d ↔ a = c ∧ b = d := by
  constructor
  · intro h
    exact ⟨by rw [← hiByte_mkWord a b, h, hiByte_mkWord], by rw [← loByte_mkWord a b, h, loByte_mkWord]⟩
  · rintro ⟨rfl, rfl⟩; rfl

namespace Machine

/-- Two bytes of the zero page are at two addresses. -/
@[simp] theorem zeroPageAddr_inj {a b : Byte} : zeroPageAddr a = zeroPageAddr b ↔ a = b := by simp [zeroPageAddr, mkWord_inj]

/-- Two stack pointers designate two locations. -/
@[simp] theorem stackAddr_inj {a b : Byte} : stackAddr a = stackAddr b ↔ a = b := by simp [stackAddr, mkWord_inj]

/-! ### Results of parts of steps -/

namespace Res

variable {α β : Type}

@[simp] theorem bind_ok (v : α) (s : State) (f : α → State → Res β) : (Res.ok v s).bind f = f v s := rfl

@[simp] theorem bind_busFault (addr : Word) (kind : AccessKind) (info : BusInfo) (s : State) (f : α → State → Res β) :
    (Res.busFault addr kind info s).bind f = .busFault addr kind info s := rfl

theorem bind_assoc {γ : Type} (r : Res α) (f : α → State → Res β) (g : β → State → Res γ) :
    (r.bind f).bind g = r.bind fun v s => (f v s).bind g := by cases r <;> rfl

/-- A sequence that went through went through both parts. -/
theorem bind_eq_ok {r : Res α} {f : α → State → Res β} {v : β} {t : State} :
    r.bind f = .ok v t ↔ ∃ u s, r = .ok u s ∧ f u s = .ok v t := by
  cases r <;> simp [bind]

/-- A sequence that was rejected was rejected in its first part or in its second. -/
theorem bind_eq_busFault {r : Res α} {f : α → State → Res β} {addr : Word} {kind : AccessKind} {info : BusInfo} {t : State} :
    r.bind f = .busFault addr kind info t ↔
      r = .busFault addr kind info t ∨ ∃ u s, r = .ok u s ∧ f u s = .busFault addr kind info t := by
  cases r <;> simp [bind]

@[simp] theorem finish_ok (n : Nat) (s : State) : (Res.ok n s).finish = .next (s.setLastCycles (some n)) := rfl

@[simp] theorem finish_busFault (addr : Word) (kind : AccessKind) (info : BusInfo) (s : State) :
    (Res.busFault addr kind info s).finish =
      .fault (.busFault addr kind info (s.haltUnspecified (.busFault addr kind info))) := rfl

/-- A step that answers a next state went through. -/
theorem finish_eq_next {r : Res Nat} {t : State} :
    r.finish = .next t ↔ ∃ n s, r = .ok n s ∧ t = s.setLastCycles (some n) := by
  cases r with
  | ok n s =>
    simp only [finish_ok, Host.Outcome.next.injEq, ok.injEq]
    exact ⟨fun h => ⟨n, s, ⟨rfl, rfl⟩, h.symm⟩, fun ⟨_, _, ⟨hn, hs⟩, ht⟩ => by rw [ht, hn, hs]⟩
  | busFault addr kind info s => simp

/-- A step that ends in a fault here met a rejected access. -/
theorem finish_eq_fault {r : Res Nat} {f : Fault} :
    r.finish = .fault f ↔ ∃ addr kind info s,
      r = .busFault addr kind info s ∧ f = .busFault addr kind info (s.haltUnspecified (.busFault addr kind info)) := by
  cases r with
  | ok n s => simp
  | busFault addr kind info s =>
    simp only [finish_busFault, Host.Outcome.fault.injEq, busFault.injEq]
    exact ⟨fun h => ⟨addr, kind, info, s, ⟨rfl, rfl, rfl, rfl⟩, h.symm⟩,
      fun ⟨_, _, _, _, ⟨h1, h2, h3, h4⟩, hf⟩ => by rw [hf, h1, h2, h3, h4]⟩

@[simp] theorem finish_ne_refused {r : Res Nat} {q : Refusal} : r.finish ≠ .refused q := by cases r <;> simp [finish, faultOf]

end Res

/-! ### The bus -/

variable {s t : State} {addr : Word} {v : Byte}

/-- Over the plain memory a read answers the byte stored there (R72). -/
theorem busRead_plain (h : s.plainBus) (addr : Word) :
    busRead addr s = .ok (s.byteAt addr) (s.logAccess (.read addr (s.byteAt addr))) := by
  simp [busRead, State.nextReply, show s.bus.replies = [] from h]

/-- Over the plain memory a write stores the byte (R72). -/
theorem busWrite_plain (h : s.plainBus) (addr : Word) (v : Byte) :
    busWrite addr v s = .ok () ((s.logAccess (.write addr v)).storeByte addr v) := by
  simp [busWrite, State.nextReply, show s.bus.replies = [] from h]

@[simp] theorem plainBus_logAccess (h : s.plainBus) (e : BusEvent) : (s.logAccess e).plainBus := by
  simp [State.plainBus, show s.bus.replies = [] from h]

/-- All a read that goes through does: it records itself, with the byte it answers. -/
theorem busRead_eq_ok (h : busRead addr s = .ok v t) : t = s.logAccess (.read addr v) := by
  unfold busRead at h
  split at h
  · obtain ⟨rfl, rfl⟩ := Res.ok.inj h; rfl
  · obtain ⟨rfl, rfl⟩ := Res.ok.inj h; rfl
  · cases h

/-- All a rejected read does. -/
theorem busRead_eq_busFault {a : Word} {k : AccessKind} {i : BusInfo} (h : busRead addr s = .busFault a k i t) :
    a = addr ∧ k = .read ∧ s.nextReply = .reject i ∧ t = s.logAccess (.rejectedRead addr i) := by
  unfold busRead at h
  split at h
  · cases h
  · cases h
  · obtain ⟨rfl, rfl, rfl, rfl⟩ := Res.busFault.inj h
    exact ⟨rfl, rfl, ‹_›, rfl⟩

/-- All a write that goes through does: it records itself, and stores the byte or leaves the memory alone. -/
theorem busWrite_eq_ok {u : Unit} (h : busWrite addr v s = .ok u t) :
    t = (s.logAccess (.write addr v)).storeByte addr v ∨ t = s.logAccess (.write addr v) := by
  unfold busWrite at h
  split at h <;> simp_all

/-- All a rejected write does. -/
theorem busWrite_eq_busFault {a : Word} {k : AccessKind} {i : BusInfo} (h : busWrite addr v s = .busFault a k i t) :
    a = addr ∧ k = .write ∧ s.nextReply = .reject i ∧ t = s.logAccess (.rejectedWrite addr v i) := by
  unfold busWrite at h
  split at h
  · cases h
  · cases h
  · obtain ⟨rfl, rfl, rfl, rfl⟩ := Res.busFault.inj h
    exact ⟨rfl, rfl, ‹_›, rfl⟩

/-! ### The answers to come -/

theorem replies_getElem?_logAccess (e : BusEvent) (k : Nat) : (s.logAccess e).bus.replies[k]? = s.bus.replies[k + 1]? := by
  simp [List.getElem?_tail]

/-- An access uses up one answer. -/
@[simp] theorem answer_logAccess (e : BusEvent) (k : Nat) (addr : Word) : (s.logAccess e).answer k addr = s.answer (k + 1) addr := by
  simp only [State.answer, replies_getElem?_logAccess, State.logAccess_byteAt]

@[simp] theorem storesAt_logAccess (e : BusEvent) (k : Nat) : (s.logAccess e).storesAt k = s.storesAt (k + 1) := by
  simp only [State.storesAt, replies_getElem?_logAccess]

/-- A store changes no answer but that of the address stored to. -/
theorem answer_storeByte_ne (h : Memory.wf s.bus.mem = true) {addr b : Word} (hne : b ≠ addr) (v : Byte) (k : Nat) :
    (s.storeByte addr v).answer k b = s.answer k b := by
  simp only [State.answer, State.storeByte_replies, State.storeByte_byteAt_ne s h hne]

theorem answer_plain (h : s.plainBus) (k : Nat) (addr : Word) : s.answer k addr = s.byteAt addr := by
  simp [State.answer, show s.bus.replies = [] from h]

@[simp] theorem busAccepts_zero : s.busAccepts 0 = true := rfl

/-- A bus that rejects none of the next `n + 1` accesses does not reject the next one, nor any of the `n` after it. -/
theorem busAccepts_succ (n : Nat) (e : BusEvent) :
    s.busAccepts (n + 1) = true ↔ s.nextReply.isReject = false ∧ (s.logAccess e).busAccepts n = true := by
  unfold State.busAccepts State.nextReply
  rw [State.logAccess_replies]
  cases s.bus.replies with
  | nil => simp [BusReply.isReject]
  | cons r rest => simp

/-- A read the bus does not reject answers the byte to come. -/
theorem busRead_of_accepts (h : s.nextReply.isReject = false) (addr : Word) :
    busRead addr s = .ok (s.answer 0 addr) (s.logAccess (.read addr (s.answer 0 addr))) := by
  unfold busRead
  unfold State.nextReply at *
  unfold State.answer
  cases hr : s.bus.replies with
  | nil => simp
  | cons r rest => cases r <;> simp_all [BusReply.isReject]

/-- The state after a write the bus does not reject. -/
def State.written (addr : Word) (v : Byte) (s : State) : State :=
  if s.storesAt 0 then (s.logAccess (.write addr v)).storeByte addr v else s.logAccess (.write addr v)

/-- A write the bus does not reject. -/
theorem busWrite_of_accepts (h : s.nextReply.isReject = false) (addr : Word) (v : Byte) :
    busWrite addr v s = .ok () (s.written addr v) := by
  unfold busWrite State.written
  unfold State.nextReply at *
  unfold State.storesAt
  cases hr : s.bus.replies with
  | nil => simp
  | cons r rest => cases r <;> simp_all [BusReply.isReject]

theorem busRead_of_reject {info : BusInfo} (h : s.nextReply = .reject info) (addr : Word) :
    busRead addr s = .busFault addr .read info (s.logAccess (.rejectedRead addr info)) := by simp [busRead, h]

theorem busWrite_of_reject {info : BusInfo} (h : s.nextReply = .reject info) (addr : Word) (v : Byte) :
    busWrite addr v s = .busFault addr .write info (s.logAccess (.rejectedWrite addr v info)) := by simp [busWrite, h]

theorem busRejects_zero (info : BusInfo) : s.busRejects 0 info ↔ s.nextReply = .reject info := by
  simp only [State.busRejects, busAccepts_zero, true_and, State.nextReply]
  cases s.bus.replies <;> simp

theorem busRejects_succ (k : Nat) (info : BusInfo) (e : BusEvent) :
    s.busRejects (k + 1) info ↔ s.nextReply.isReject = false ∧ (s.logAccess e).busRejects k info := by
  unfold State.busRejects
  rw [busAccepts_succ k e, replies_getElem?_logAccess, and_assoc]

end Machine

end Sys2Proof
end

