-- ==== Sys2Proof/Laws/Addresses.lean ====
section
/-! SUPPORT. The addresses that the operations compute are those that the spec's formulas give in numbers (spec R14, R104 to R112, R220). -/

namespace Sys2Proof.Machine

theorem toNat_mkWord (hi lo : Byte) : (mkWord hi lo).toNat = lo.toNat + 256 * hi.toNat := by
  have h1 := hi.isLt
  have h2 := lo.isLt
  rw [mkWord, BitVec.toNat_or, BitVec.toNat_shiftLeft, BitVec.toNat_setWidth, BitVec.toNat_setWidth, Nat.shiftLeft_eq,
    Nat.mod_eq_of_lt (show hi.toNat < 2 ^ 16 by omega), Nat.mod_eq_of_lt (show lo.toNat < 2 ^ 16 by omega),
    Nat.mod_eq_of_lt (show hi.toNat * 2 ^ 8 < 2 ^ 16 by omega), Nat.mul_comm, ← Nat.two_pow_add_eq_or_of_lt h2]
  omega

theorem toNat_hiByte (w : Word) : (hiByte w).toNat = w.toNat / 256 := by
  have := w.isLt
  rw [hiByte, BitVec.extractLsb'_toNat, Nat.shiftRight_eq_div_pow]
  omega

theorem toNat_loByte (w : Word) : (loByte w).toNat = w.toNat % 256 := by
  rw [loByte, BitVec.extractLsb'_toNat, Nat.shiftRight_zero]

@[simp] theorem toNat_word (n : Nat) : (word n).toNat = n % 65536 := by simp [word]

@[simp] theorem word_toNat (w : Word) : word w.toNat = w := by simp [word]

theorem toNat_zeroPageAddr (v : Byte) : (zeroPageAddr v).toNat = v.toNat := by simp [zeroPageAddr, toNat_mkWord]

theorem zeroPageAddr_eq_word (v : Byte) : zeroPageAddr v = word v.toNat := by
  apply BitVec.eq_of_toNat_eq
  rw [toNat_zeroPageAddr, toNat_word]
  have := v.isLt
  omega

theorem stackAddr_eq (sp : Byte) : stackAddr sp = stackLocation sp.toNat := by
  have := sp.isLt
  apply BitVec.eq_of_toNat_eq
  rw [stackLocation, toNat_word, stackAddr, toNat_mkWord]
  simp only [BitVec.toNat_ofNat]
  omega

/-- The stack location for a stack pointer that moved by `n` (R14). -/
theorem stackLocation_congr {m n : Nat} (h : m % 256 = n % 256) : stackLocation m = stackLocation n := by simp [stackLocation, h]

theorem mkWord_eq_word (hi lo : Byte) : mkWord hi lo = word (lo.toNat + 256 * hi.toNat) := by
  apply BitVec.eq_of_toNat_eq
  have := hi.isLt
  have := lo.isLt
  rw [toNat_mkWord, toNat_word]
  omega

theorem indexed_ea (base : Word) (index : Byte) : (indexed base index).ea = word (base.toNat + index.toNat) := by
  apply BitVec.eq_of_toNat_eq
  simp [indexed, toNat_zeroPageAddr]

theorem indexed_pageCross (base : Word) (index : Byte) :
    (indexed base index).pageCross = decide ((word (base.toNat + index.toNat)).toNat / 256 ≠ base.toNat / 256) := by
  apply decide_eq_decide.mpr
  rw [← indexed_ea, ← toNat_hiByte, ← toNat_hiByte, ne_eq, ne_eq, BitVec.toNat_inj]
  rfl

theorem indexed_eq (base : Word) (index : Byte) :
    indexed base index =
      ⟨word (base.toNat + index.toNat), decide ((word (base.toNat + index.toNat)).toNat / 256 ≠ base.toNat / 256)⟩ := by
  rw [← indexed_pageCross, ← indexed_ea]

theorem nextInPage_eq (ptr : Word) : nextInPage ptr = indirectHigh ptr := by
  have := ptr.isLt
  apply BitVec.eq_of_toNat_eq
  rw [nextInPage, toNat_mkWord, indirectHigh, toNat_word, BitVec.toNat_add, toNat_hiByte, toNat_loByte, show (1 : Byte).toNat = 1 from rfl]
  omega

theorem branchTarget_eq (s : State) (oo : Byte) : branchTarget s.pc oo = branchDestination oo s := by
  simp only [branchTarget, signExtend16, branchDestination]
  rw [BitVec.ofInt_add, BitVec.ofInt_natCast, BitVec.ofNat_toNat, BitVec.setWidth_eq]
  rfl

end Sys2Proof.Machine
end

