-- ==== Sys2Proof/Laws/Written.lean ====
section
/-! SUPPORT. The state after a write that the bus took: each field, each byte of memory, and the answers still to come. -/

namespace Sys2Proof.Machine.State

variable (s : State) (addr : Word) (v : Byte)

@[simp] theorem written_a : (s.written addr v).a = s.a := by unfold written; split <;> rfl
@[simp] theorem written_x : (s.written addr v).x = s.x := by unfold written; split <;> rfl
@[simp] theorem written_y : (s.written addr v).y = s.y := by unfold written; split <;> rfl
@[simp] theorem written_sp : (s.written addr v).sp = s.sp := by unfold written; split <;> rfl
@[simp] theorem written_pc : (s.written addr v).pc = s.pc := by unfold written; split <;> rfl
@[simp] theorem written_p : (s.written addr v).p = s.p := by unfold written; split <;> rfl
@[simp] theorem written_runState : (s.written addr v).runState = s.runState := by unfold written; split <;> rfl
@[simp] theorem written_irqLine : (s.written addr v).irqLine = s.irqLine := by unfold written; split <;> rfl
@[simp] theorem written_nmiPending : (s.written addr v).nmiPending = s.nmiPending := by unfold written; split <;> rfl
@[simp] theorem written_params : (s.written addr v).params = s.params := by unfold written; split <;> rfl
@[simp] theorem written_lastCycles : (s.written addr v).lastCycles = s.lastCycles := by unfold written; split <;> rfl
@[simp] theorem written_freeCount : (s.written addr v).freeCount = s.freeCount := by unfold written; split <;> rfl
@[simp] theorem written_status : (s.written addr v).status = s.status := by unfold written; split <;> rfl
@[simp] theorem written_flag (f : Flag) : (s.written addr v).flag f = s.flag f := by unfold written; split <;> rfl
@[simp] theorem written_reg (r : Reg) : (s.written addr v).reg r = s.reg r := by cases r <;> simp [reg]
@[simp] theorem written_history : (s.written addr v).bus.history = .write addr v :: s.bus.history := by
  unfold written; split <;> rfl
@[simp] theorem written_replies : (s.written addr v).bus.replies = s.bus.replies.tail := by
  unfold written; split <;> rfl

theorem written_wf (h : Memory.wf s.bus.mem = true) : Memory.wf (s.written addr v).bus.mem = true := by
  unfold written
  split
  · exact storeByte_wf _ h addr v
  · exact h

/-- The byte written is there afterwards where the plain memory took it. -/
theorem written_byteAt_same (h : Memory.wf s.bus.mem = true) :
    (s.written addr v).byteAt addr = if s.storesAt 0 then v else s.byteAt addr := by
  unfold written
  split
  · exact storeByte_byteAt_same _ h addr v
  · rfl

/-- No other byte changes. -/
theorem written_byteAt_ne (h : Memory.wf s.bus.mem = true) {b : Word} (hne : b ≠ addr) :
    (s.written addr v).byteAt b = s.byteAt b := by
  unfold written
  split
  · exact storeByte_byteAt_ne _ h hne v
  · rfl

theorem written_answer_ne (h : Memory.wf s.bus.mem = true) {b : Word} (hne : b ≠ addr) (k : Nat) :
    (s.written addr v).answer k b = s.answer (k + 1) b := by
  unfold written
  split
  · rw [answer_storeByte_ne (by exact h) hne, answer_logAccess]
  · rw [answer_logAccess]

@[simp] theorem written_storesAt (k : Nat) : (s.written addr v).storesAt k = s.storesAt (k + 1) := by
  unfold written; split <;> simp

theorem written_busAccepts (k : Nat) : (s.written addr v).busAccepts k = (s.logAccess (.write addr v)).busAccepts k := by
  unfold written; split <;> simp

theorem written_nextReply : (s.written addr v).nextReply = (s.logAccess (.write addr v)).nextReply := by
  unfold written; split <;> simp

end Sys2Proof.Machine.State
end

