-- ==== Sys2Proof/Laws/Advances.lean ====
section
/-! SUPPORT. What no part of a step does: two relations between the state before and the state after, with the operations that keep them.
`Quiet` is an effect on registers and flags; `Advances` is any part of a step, its bus accesses included. -/

namespace Sys2Proof.Machine

/-- From `s` to `t` neither the bus nor PC, the sequencer, the interrupt inputs, the parameters nor the Break flag changes, and U stays
1 in the stored P. -/
structure Quiet (s t : State) : Prop where
  bus : t.bus = s.bus
  pc : t.pc = s.pc
  runState : t.runState = s.runState
  irqLine : t.irqLine = s.irqLine
  nmiPending : t.nmiPending = s.nmiPending
  params : t.params = s.params
  brk : t.flag .b = s.flag .b
  unused : s.p.getLsbD 5 = true → t.p.getLsbD 5 = true

namespace Quiet

theorem refl (s : State) : Quiet s s := ⟨rfl, rfl, rfl, rfl, rfl, rfl, rfl, id⟩

theorem trans {s t u : State} (h : Quiet s t) (h' : Quiet t u) : Quiet s u :=
  ⟨h'.bus.trans h.bus, h'.pc.trans h.pc, h'.runState.trans h.runState, h'.irqLine.trans h.irqLine, h'.nmiPending.trans h.nmiPending,
    h'.params.trans h.params, h'.brk.trans h.brk, fun hs => h'.unused (h.unused hs)⟩

theorem setA (v : Byte) (s : State) : Quiet s (s.setA v) := ⟨rfl, rfl, rfl, rfl, rfl, rfl, rfl, id⟩
theorem setX (v : Byte) (s : State) : Quiet s (s.setX v) := ⟨rfl, rfl, rfl, rfl, rfl, rfl, rfl, id⟩
theorem setY (v : Byte) (s : State) : Quiet s (s.setY v) := ⟨rfl, rfl, rfl, rfl, rfl, rfl, rfl, id⟩
theorem setSp (v : Byte) (s : State) : Quiet s (s.setSp v) := ⟨rfl, rfl, rfl, rfl, rfl, rfl, rfl, id⟩
theorem useFree (n : Nat) (s : State) : Quiet s (s.useFree n) := ⟨rfl, rfl, rfl, rfl, rfl, rfl, rfl, id⟩

theorem setFlag {f : Flag} (h : f ≠ .b) (on : Bool) (s : State) : Quiet s (s.setFlag f on) :=
  ⟨rfl, rfl, rfl, rfl, rfl, rfl, by rw [State.flag_setFlag_ne s h.symm], fun _ => State.setStatus_bit5 s _⟩

theorem setNZ (v : Byte) (s : State) : Quiet s (s.setNZ v) := (setFlag (by decide) _ s).trans (setFlag (by decide) _ _)

theorem setAluResult (r : AluResult) (s : State) : Quiet s (s.setAluResult r) :=
  ((((setFlag (by decide) _ s).trans (setFlag (by decide) _ _)).trans (setA _ _)).trans (setFlag (by decide) _ _)).trans
    (setFlag (by decide) _ _)

theorem setDecimalResult (m : Byte) (r : AluResult) (s : State) : Quiet s (s.setDecimalResult m r) := by
  unfold State.setDecimalResult
  split
  · exact setAluResult r s
  · exact (setAluResult _ s).trans (useFree 2 _)

theorem compare (r m : Byte) (s : State) : Quiet s (s.compare r m) := (setFlag (by decide) _ s).trans (setNZ _ _)

theorem byteAt {s t : State} (h : Quiet s t) (b : Word) : t.byteAt b = s.byteAt b := by unfold State.byteAt; rw [h.bus]

theorem setStatus {s : State} {v : Byte} (h : v.getLsbD 4 = s.flag .b) : Quiet s (s.setStatus v) :=
  ⟨rfl, rfl, rfl, rfl, rfl, rfl, by rw [State.flag_setStatus]; simpa [Flag.bit] using h, fun _ => State.setStatus_bit5 s _⟩

end Quiet

/-- The entries `es`, newest first, are the accesses from `s` to `t`: each takes its answer, every byte of memory that changed has the
write of its new value among them, and a write that the plain memory took and no later one covers is still there (R72). -/
structure Accounts (es : List BusEvent) (s t : State) : Prop where
  history : t.bus.history = es ++ s.bus.history
  accesses : ∀ e ∈ es, e.access ≠ none
  replies : t.bus.replies = s.bus.replies.drop es.length
  changed : Memory.wf s.bus.mem = true → ∀ b, t.byteAt b ≠ s.byteAt b → BusEvent.write b (t.byteAt b) ∈ es
  kept : Memory.wf s.bus.mem = true → ∀ k b v, es.reverse[k]? = some (.write b v) → s.storesAt k = true →
    (∀ j w, k < j → es.reverse[j]? ≠ some (.write b w)) → t.byteAt b = v

/-- No access, and memory as it was. -/
theorem Accounts.nil {s t : State} (h : t.bus = s.bus) : Accounts [] s t where
  history := by rw [h]; rfl
  accesses := by simp
  replies := by simp [h]
  changed _ b hb := absurd (by unfold State.byteAt; rw [h]) hb
  kept _ k b v hk := by simp at hk

/-- Entries one part after another. -/
theorem Accounts.append {es fs : List BusEvent} {s t u : State} (h : Accounts es s t) (h' : Accounts fs t u)
    (hwf : Memory.wf s.bus.mem = true → Memory.wf t.bus.mem = true) : Accounts (fs ++ es) s u where
  history := by rw [h'.history, h.history, List.append_assoc]
  accesses e he := (List.mem_append.mp he).elim (h'.accesses e) (h.accesses e)
  replies := by rw [h'.replies, h.replies, List.drop_drop, List.length_append, Nat.add_comm]
  changed hw b hb := by
    by_cases hx : u.byteAt b = t.byteAt b
    · rw [hx] at hb ⊢
      exact List.mem_append_right _ (h.changed hw b hb)
    · exact List.mem_append_left _ (h'.changed (hwf hw) b hx)
  kept hw k b v hk hs hlast := by
    rw [List.reverse_append] at hk hlast
    by_cases hlt : k < es.reverse.length
    · rw [List.getElem?_append_left hlt] at hk
      have ht : t.byteAt b = v := by
        refine h.kept hw k b v hk hs fun j w hj hjw => hlast j w hj ?_
        rwa [List.getElem?_append_left (List.getElem?_eq_some_iff.mp hjw).1]
      by_contra hu
      have hm := h'.changed (hwf hw) b (by rwa [ht])
      obtain ⟨i, hi⟩ := List.mem_iff_getElem?.mp (List.mem_reverse.mpr hm)
      refine hlast (es.reverse.length + i) (u.byteAt b) (by omega) ?_
      rw [List.getElem?_append_right (by omega), Nat.add_sub_cancel_left, hi]
    · obtain ⟨i, rfl⟩ : ∃ i, k = es.reverse.length + i := ⟨k - es.reverse.length, by omega⟩
      rw [List.getElem?_append_right (by omega), Nat.add_sub_cancel_left] at hk
      refine h'.kept (hwf hw) i b v hk ?_ fun j w hj hjw => hlast (es.reverse.length + j) w (by omega) ?_
      · unfold State.storesAt at *
        rw [h.replies, List.getElem?_drop, ← List.length_reverse]
        exact hs
      · rwa [List.getElem?_append_right (by omega), Nat.add_sub_cancel_left]

/-- From `s` to `t` the sequencer, the interrupt inputs, the parameters and the Break flag stay, U stays 1, memory stays canonical, and
the history grows by accesses that account for the memory. -/
structure Advances (s t : State) : Prop where
  runState : t.runState = s.runState
  irqLine : t.irqLine = s.irqLine
  nmiPending : t.nmiPending = s.nmiPending
  params : t.params = s.params
  brk : t.flag .b = s.flag .b
  unused : s.p.getLsbD 5 = true → t.p.getLsbD 5 = true
  wf : Memory.wf s.bus.mem = true → Memory.wf t.bus.mem = true
  history : ∃ es, Accounts es s t

theorem Quiet.advances {s t : State} (h : Quiet s t) : Advances s t :=
  ⟨h.runState, h.irqLine, h.nmiPending, h.params, h.brk, h.unused, fun hw => by rw [h.bus]; exact hw, [],
    .nil h.bus⟩

namespace Advances

theorem refl (s : State) : Advances s s := (Quiet.refl s).advances

theorem trans {s t u : State} (h : Advances s t) (h' : Advances t u) : Advances s u := by
  refine ⟨h'.runState.trans h.runState, h'.irqLine.trans h.irqLine, h'.nmiPending.trans h.nmiPending, h'.params.trans h.params,
    h'.brk.trans h.brk, fun x => h'.unused (h.unused x), fun x => h'.wf (h.wf x), ?_⟩
  obtain ⟨es, h1⟩ := h.history
  obtain ⟨fs, h2⟩ := h'.history
  exact ⟨fs ++ es, h1.append h2 h.wf⟩

theorem setPc (w : Word) (s : State) : Advances s (s.setPc w) :=
  ⟨rfl, rfl, rfl, rfl, rfl, id, id, [], .nil rfl⟩

theorem setLastCycles (n : Option Nat) (s : State) : Advances s (s.setLastCycles n) :=
  ⟨rfl, rfl, rfl, rfl, rfl, id, id, [], .nil rfl⟩

/-- An access that is no write leaves the memory alone. -/
theorem logAccess {e : BusEvent} (h : e.access ≠ none) (hw : ∀ b v, e ≠ .write b v) (s : State) : Advances s (s.logAccess e) :=
  ⟨rfl, rfl, rfl, rfl, rfl, id, id, [e],
    { history := rfl
      accesses := by simpa using h
      replies := by simp
      changed := fun _ _ hb => absurd rfl hb
      kept := fun _ k b v hk => by
        cases k with
        | zero => exact absurd (by simpa using hk) (hw b v)
        | succ k => simp at hk }⟩

theorem read (addr : Word) (v : Byte) (s : State) : Advances s (s.logAccess (.read addr v)) := .logAccess (by simp [BusEvent.access]) (by simp) s

theorem rejectedRead (addr : Word) (info : BusInfo) (s : State) : Advances s (s.logAccess (.rejectedRead addr info)) :=
  .logAccess (by simp [BusEvent.access]) (by simp) s

theorem rejectedWrite (addr : Word) (v : Byte) (info : BusInfo) (s : State) : Advances s (s.logAccess (.rejectedWrite addr v info)) :=
  .logAccess (by simp [BusEvent.access]) (by simp) s

theorem written (addr : Word) (v : Byte) (s : State) : Advances s (s.written addr v) := by
  refine ⟨by simp, by simp, by simp, by simp, by simp, by simp, State.written_wf s addr v, [.write addr v], by simp,
    by simp [BusEvent.access], by simp, fun hw b hb => ?_, fun hw k b w hk hs _ => ?_⟩
  · by_cases h : b = addr
    · subst h
      rw [State.written_byteAt_same _ _ _ hw] at hb ⊢
      split_ifs at hb ⊢ with hs
      · simp
      · exact absurd rfl hb
    · rw [State.written_byteAt_ne _ _ _ hw h] at hb
      exact absurd rfl hb
  · cases k with
    | zero =>
      obtain ⟨rfl, rfl⟩ : addr = b ∧ v = w := by simpa using hk
      rw [State.written_byteAt_same _ _ _ hw, hs, if_pos rfl]
    | succ k => simp at hk

end Advances

end Sys2Proof.Machine
end

