-- ==== Sys2Proof/Laws/Script.lean ====
section
/-! SUPPORT. Scripts: what a part of a step does to the bus, said once for both endings. A part makes a list of accesses; where the bus
rejects none of them it goes through, and otherwise it ends at the first rejected one (spec R72, R79, R407). -/

namespace Sys2Proof.Machine

/-- The state after a read of `addr` that the bus does not reject. -/
abbrev State.afterRead (addr : Word) (s : State) : State := s.logAccess (.read addr (s.answer 0 addr))

/-- The entry `e` records the rejection, with `info`, of an access (R72, R407). -/
def BusEvent.Rejects (e : BusEvent) (access : Access) (info : BusInfo) : Prop :=
  match access.1 with
  | .read => e = .rejectedRead access.2 info
  | .write => ∃ v, e = .rejectedWrite access.2 v info

/-- `u` is where a part of a step that began in `s` stopped: after `accesses`, the last of which the bus rejected with `info`. -/
structure Cut (accesses : List Access) (access : Access) (info : BusInfo) (s u : State) : Prop where
  accessed : Accessed accesses s u
  advances : Advances s u
  last : ∃ e h, u.bus.history = e :: h ∧ e.Rejects access info

/-- `r` makes the accesses `accesses` from `s`: where the bus rejects none it answers `v` and `t`, else the first rejected access is
its bus fault. -/
structure Script {α : Type} (r : Res α) (s : State) (accesses : List Access) (v : α) (t : State) : Prop where
  replies : t.bus.replies = s.bus.replies.drop accesses.length
  accessed : Accessed accesses s t
  advances : Advances s t
  ok : s.busAccepts accesses.length = true → r = .ok v t
  rejected : ∀ k access info, accesses[k]? = some access → s.busRejects k info →
    ∃ u, r = .busFault access.2 access.1 info u ∧ Cut (accesses.take (k + 1)) access info s u

/-! ### What the bus accepts -/

theorem busAccepts_append {s t : State} {m n : Nat} (h : t.bus.replies = s.bus.replies.drop m) :
    s.busAccepts (m + n) = true ↔ s.busAccepts m = true ∧ t.busAccepts n = true := by
  simp only [State.busAccepts, h, List.take_add, List.all_append, Bool.and_eq_true]

/-- A bus that accepts `n` accesses accepts fewer. -/
theorem busAccepts_mono {s : State} {m n : Nat} (hmn : m ≤ n) (h : s.busAccepts n = true) : s.busAccepts m = true := by
  simp only [State.busAccepts, List.all_eq_true] at *
  intro r hr
  exact h r ((List.take_subset_take_left _ hmn) hr)

/-- Of the next `n` accesses none is rejected, or there is a first rejected one. -/
theorem accepts_or_rejects (s : State) (n : Nat) : s.busAccepts n = true ∨ ∃ k info, k < n ∧ s.busRejects k info := by
  induction n with
  | zero => exact .inl rfl
  | succ n ih =>
    rcases ih with h | ⟨k, info, hk, hr⟩
    · cases hr : s.bus.replies[n]? with
      | none =>
        left
        have hn : s.bus.replies.length ≤ n := by simpa using hr
        simp only [State.busAccepts] at *
        rw [List.take_of_length_le hn] at h
        rwa [List.take_of_length_le (by omega)]
      | some r =>
        cases r with
        | reject info => exact .inr ⟨n, info, by omega, h, hr⟩
        | memory => left; simp only [State.busAccepts] at *; rw [List.take_add_one, List.all_append, h, hr]; rfl
        | device v => left; simp only [State.busAccepts] at *; rw [List.take_add_one, List.all_append, h, hr]; rfl
    · exact .inr ⟨k, info, by omega, hr⟩

theorem busRejects_append {s t : State} {m k : Nat} {info : BusInfo} (h : t.bus.replies = s.bus.replies.drop m) :
    s.busRejects (m + k) info ↔ s.busAccepts m = true ∧ t.busRejects k info := by
  unfold State.busRejects
  rw [busAccepts_append h, h, List.getElem?_drop, and_assoc]

/-! ### The accesses made -/

theorem Accessed.refl (s : State) : Accessed [] s s := ⟨[], by simp⟩

theorem Accessed.trans {as bs : List Access} {s t u : State} (h : Accessed as s t) (h' : Accessed bs t u) : Accessed (as ++ bs) s u := by
  obtain ⟨es, h1, h2⟩ := h
  obtain ⟨fs, h3, h4⟩ := h'
  exact ⟨fs ++ es, by rw [h3, h1, List.append_assoc], by simp [h2, h4]⟩

/-- What does not touch the history does not change what was accessed. -/
theorem Accessed.congr {as : List Access} {s t s' t' : State} (h : Accessed as s t) (hs : s'.bus.history = s.bus.history)
    (ht : t'.bus.history = t.bus.history) : Accessed as s' t' := by
  unfold Accessed at *
  rw [hs, ht]
  exact h

theorem accessed_logAccess {s : State} {e : BusEvent} {access : Access} (h : e.access = some access) :
    Accessed [access] s (s.logAccess e) := ⟨[e], by simp [h]⟩

theorem accessed_written (addr : Word) (v : Byte) (s : State) : Accessed [(.write, addr)] s (s.written addr v) :=
  ⟨[.write addr v], by simp [BusEvent.access]⟩

/-! ### Scripts -/

namespace Script

variable {α β : Type}

/-- No access. -/
theorem pure (v : α) (s : State) : Script (.ok v s) s [] v s where
  replies := by simp
  accessed := .refl s
  advances := .refl s
  ok _ := rfl
  rejected k access info h := by simp at h

/-- A change of the state before the first access, one that touches no answer and no history entry. -/
theorem of_eq {r : Res α} {s s' t : State} {accesses : List Access} {v : α} (h : Script r s' accesses v t) (hb : s'.bus = s.bus)
    (hs : Advances s s') : Script r s accesses v t where
  replies := by rw [h.replies, hb]
  accessed := h.accessed.congr (by rw [hb]) rfl
  advances := hs.trans h.advances
  ok ha := h.ok (by simpa only [State.busAccepts, hb] using ha)
  rejected k access info hk hr := by
    obtain ⟨u, h1, h2⟩ := h.rejected k access info hk (by simpa only [State.busRejects, State.busAccepts, hb] using hr)
    exact ⟨u, h1, h2.accessed.congr (by rw [hb]) rfl, hs.trans h2.advances, h2.last⟩

/-- One part after another. -/
theorem bind {r : Res α} {f : α → State → Res β} {s t u : State} {as bs : List Access} {v : α} {w : β}
    (h : Script r s as v t) (h' : Script (f v t) t bs w u) : Script (r.bind f) s (as ++ bs) w u where
  replies := by rw [h'.replies, h.replies, List.drop_drop, List.length_append]
  accessed := h.accessed.trans h'.accessed
  advances := h.advances.trans h'.advances
  ok ha := by
    rw [List.length_append, busAccepts_append h.replies] at ha
    rw [h.ok ha.1, Res.bind_ok, h'.ok ha.2]
  rejected k access info hk hr := by
    by_cases hlt : k < as.length
    · rw [List.getElem?_append_left hlt] at hk
      obtain ⟨x, h1, h2⟩ := h.rejected k access info hk hr
      refine ⟨x, by rw [h1, Res.bind_busFault], ?_⟩
      rwa [List.take_append_of_le_length (by omega)]
    · obtain ⟨j, rfl⟩ : ∃ j, k = as.length + j := ⟨k - as.length, by omega⟩
      rw [List.getElem?_append_right (by omega), Nat.add_sub_cancel_left] at hk
      rw [busRejects_append h.replies] at hr
      obtain ⟨x, h1, h2⟩ := h'.rejected j access info hk hr.2
      refine ⟨x, by rw [h.ok hr.1, Res.bind_ok, h1], ?_, h.advances.trans h2.advances, h2.last⟩
      rw [Nat.add_assoc, List.take_length_add_append]
      exact h.accessed.trans h2.accessed

/-- A part followed by one that makes no access. -/
theorem bind_pure {r : Res α} {f : α → State → Res β} {s t u : State} {as : List Access} {v : α} {w : β}
    (h : Script r s as v t) (hf : f v t = .ok w u) (hu : u.bus = t.bus) (ha : Advances t u) : Script (r.bind f) s as w u := by
  have := h.bind (f := f) (bs := []) (w := w) (u := u)
    { replies := by simp [hu]
      accessed := ⟨[], by simp [hu]⟩
      advances := ha
      ok := fun _ => hf
      rejected := fun k access info hk => by simp at hk }
  simpa using this

theorem read (addr : Word) (s : State) : Script (busRead addr s) s [(.read, addr)] (s.answer 0 addr) (s.afterRead addr) where
  replies := by simp [State.afterRead]
  accessed := accessed_logAccess rfl
  advances := .read addr _ s
  ok ha := busRead_of_accepts ((busAccepts_succ 0 (.read addr 0)).mp ha).1 addr
  rejected k access info hk hr := by
    obtain rfl : k = 0 := by
      cases k with
      | zero => rfl
      | succ k => simp at hk
    obtain rfl : (.read, addr) = access := by simpa using hk
    exact ⟨_, busRead_of_reject ((busRejects_zero info).mp hr) addr, accessed_logAccess rfl, .rejectedRead addr info s, _, _, rfl, rfl⟩

theorem write (addr : Word) (v : Byte) (s : State) : Script (busWrite addr v s) s [(.write, addr)] () (s.written addr v) where
  replies := by simp
  accessed := accessed_written addr v s
  advances := .written addr v s
  ok ha := busWrite_of_accepts ((busAccepts_succ 0 (.read addr 0)).mp ha).1 addr v
  rejected k access info hk hr := by
    obtain rfl : k = 0 := by
      cases k with
      | zero => rfl
      | succ k => simp at hk
    obtain rfl : (.write, addr) = access := by simpa using hk
    exact ⟨_, busWrite_of_reject ((busRejects_zero info).mp hr) addr v, accessed_logAccess rfl, .rejectedWrite addr v info s, _, _, rfl, v, rfl⟩

/-- A part that went through met a bus that rejected none of its accesses, and answered what its script says. -/
theorem eq_of_ok {r : Res α} {s t t' : State} {as : List Access} {v v' : α} (h : Script r s as v t) (hr : r = .ok v' t') :
    s.busAccepts as.length = true ∧ v' = v ∧ t' = t := by
  rcases accepts_or_rejects s as.length with ha | ⟨k, info, hk, hrej⟩
  · have := h.ok ha
    rw [hr] at this
    obtain ⟨rfl, rfl⟩ := Res.ok.inj this
    exact ⟨ha, rfl, rfl⟩
  · obtain ⟨u, h1, -⟩ := h.rejected k _ info (List.getElem?_eq_getElem hk) hrej
    rw [hr] at h1
    cases h1

/-- A whole step that goes through. -/
theorem finish_next {r : Res Nat} {s t t' : State} {as : List Access} {n : Nat} (h : Script r s as n t) (hr : r.finish = .next t') :
    s.busAccepts as.length = true ∧ t' = t.setLastCycles (some n) := by
  obtain ⟨m, u, h1, rfl⟩ := Res.finish_eq_next.mp hr
  obtain ⟨ha, rfl, rfl⟩ := h.eq_of_ok h1
  exact ⟨ha, rfl⟩

theorem finish_ok {r : Res Nat} {s t : State} {as : List Access} {n : Nat} (h : Script r s as n t) (ha : s.busAccepts as.length = true) :
    r.finish = .next (t.setLastCycles (some n)) := by rw [h.ok ha, Res.finish_ok]

end Script

end Sys2Proof.Machine
end

