-- ==== Sys2Proof/Laws/Operands.lean ====
section
/-! SUPPORT. The scripts of the operand forms, the stack, the word reads and the entry and return of an interrupt, each with the state
it ends in. -/

namespace Sys2Proof.Machine

/-! ### Two reads -/

/-- The state after two reads. -/
abbrev State.afterReads (a b : Word) (s : State) : State := (s.afterRead a).afterRead b

theorem Script.readTwo (a b : Word) (s : State) :
    Script ((busRead a s).bind fun lo s1 => (busRead b s1).bind fun hi s2 => .ok (mkWord hi lo) s2) s [(.read, a), (.read, b)]
      (mkWord (s.answer 1 b) (s.answer 0 a)) (s.afterReads a b) := by
  refine Script.bind (as := [(.read, a)]) (Script.read a s) ?_
  refine Script.bind_pure (Script.read b _) ?_ rfl (.refl _)
  rw [answer_logAccess]

theorem Script.readWord (addr : Word) (s : State) :
    Script (busReadWord addr s) s [(.read, addr), (.read, addr + 1)]
      (mkWord (s.answer 1 (addr + 1)) (s.answer 0 addr)) (s.afterReads addr (addr + 1)) := Script.readTwo _ _ s

/-! ### The resolver -/

/-- The state after the resolver's pointer reads. -/
def State.afterPointer (m : MemMode) (s : State) : State :=
  match m with
  | .izx zz => s.afterReads (zeroPageAddr (zz + s.x)) (zeroPageAddr (zz + s.x + 1))
  | .izy zz => s.afterReads (zeroPageAddr zz) (zeroPageAddr (zz + 1))
  | .zp _ | .zpx _ | .zpy _ | .abs _ | .abx _ | .aby _ => s

theorem zeroPageAddr_add (z : Byte) (n : Nat) (h : n < 256) : zeroPageAddr (z + BitVec.ofNat 8 n) = word ((z.toNat + n) % 256) := by
  rw [zeroPageAddr_eq_word, BitVec.toNat_add, BitVec.toNat_ofNat, Nat.mod_eq_of_lt h]

theorem zeroPageAddr_sum (a b : Byte) : zeroPageAddr (a + b) = word ((a.toNat + b.toNat) % 256) := by
  rw [zeroPageAddr_eq_word, BitVec.toNat_add]

theorem zeroPageAddr_sum_succ (a b : Byte) : zeroPageAddr (a + b + 1) = word ((a.toNat + b.toNat + 1) % 256) := by
  rw [zeroPageAddr_eq_word, BitVec.toNat_add, BitVec.toNat_add, show (1 : Byte).toNat = 1 from rfl]
  congr 1
  omega

theorem zeroPageAddr_succ (a : Byte) : zeroPageAddr (a + 1) = word ((a.toNat + 1) % 256) := by
  rw [zeroPageAddr_eq_word, BitVec.toNat_add]
  rfl

/-- The pointer's two answers as a word (R108, R109). -/
theorem zeroPagePointer_izx (zz : Byte) (s : State) :
    word (zeroPagePointer (zz.toNat + s.x.toNat) s) =
      mkWord (s.answer 1 (zeroPageAddr (zz + s.x + 1))) (s.answer 0 (zeroPageAddr (zz + s.x))) := by
  rw [mkWord_eq_word, zeroPagePointer, zeroPageAddr_sum, zeroPageAddr_sum_succ]

theorem zeroPagePointer_izy (zz : Byte) (s : State) :
    zeroPagePointer zz.toNat s = (mkWord (s.answer 1 (zeroPageAddr (zz + 1))) (s.answer 0 (zeroPageAddr zz))).toNat := by
  have := zz.isLt
  rw [toNat_mkWord, zeroPagePointer, zeroPageAddr_succ, zeroPageAddr_eq_word, Nat.mod_eq_of_lt this]

theorem Script.resolve (m : MemMode) (s : State) :
    Script (resolve m s) s (pointerAccesses m s) ⟨effectiveAddress m s, pageCrossed m s⟩ (s.afterPointer m) := by
  cases m with
  | zp zz =>
    have h : effectiveAddress (.zp zz) s = zeroPageAddr zz := (zeroPageAddr_eq_word zz).symm
    rw [h]
    exact Script.pure _ s
  | zpx zz =>
    have h : effectiveAddress (.zpx zz) s = zeroPageAddr (zz + s.x) := (zeroPageAddr_sum zz s.x).symm
    rw [h]
    exact Script.pure _ s
  | zpy zz =>
    have h : effectiveAddress (.zpy zz) s = zeroPageAddr (zz + s.y) := (zeroPageAddr_sum zz s.y).symm
    rw [h]
    exact Script.pure _ s
  | abs addr =>
    have h : effectiveAddress (.abs addr) s = addr := word_toNat addr
    rw [h]
    exact Script.pure _ s
  | abx addr =>
    have h : (⟨effectiveAddress (.abx addr) s, pageCrossed (.abx addr) s⟩ : Resolved) = indexed addr s.x := by
      rw [indexed_eq]
      rfl
    rw [h]
    exact Script.pure _ s
  | aby addr =>
    have h : (⟨effectiveAddress (.aby addr) s, pageCrossed (.aby addr) s⟩ : Resolved) = indexed addr s.y := by
      rw [indexed_eq]
      rfl
    rw [h]
    exact Script.pure _ s
  | izx zz =>
    have h : (⟨effectiveAddress (.izx zz) s, pageCrossed (.izx zz) s⟩ : Resolved) =
        ⟨mkWord (s.answer 1 (zeroPageAddr (zz + s.x + 1))) (s.answer 0 (zeroPageAddr (zz + s.x))), false⟩ := by
      simp only [effectiveAddress, pageCrossed, unindexed, zeroPagePointer_izx]
    rw [h, pointerAccesses, ← zeroPageAddr_sum, ← zeroPageAddr_sum_succ]
    exact Script.bind_pure (Script.readTwo _ _ s) rfl rfl (.refl _)
  | izy zz =>
    have h : (⟨effectiveAddress (.izy zz) s, pageCrossed (.izy zz) s⟩ : Resolved) =
        indexed (mkWord (s.answer 1 (zeroPageAddr (zz + 1))) (s.answer 0 (zeroPageAddr zz))) s.y := by
      rw [indexed_eq, ← zeroPagePointer_izy]
      rfl
    rw [h, pointerAccesses, ← zeroPageAddr_eq_word, ← zeroPageAddr_succ]
    exact Script.bind_pure (Script.readTwo _ _ s) rfl rfl (.refl _)

theorem Script.resolveIndirect (ptr : Word) (s : State) :
    Script (resolveIndirect ptr s) s [(.read, ptr), (.read, indirectHigh ptr)]
      (mkWord (s.answer 1 (indirectHigh ptr)) (s.answer 0 ptr)) (s.afterReads ptr (indirectHigh ptr)) := by
  rw [← nextInPage_eq]
  exact Script.readTwo _ _ s

/-- After the pointer reads the answers have moved on by their number. -/
theorem answer_afterPointer (m : MemMode) (s : State) (k : Nat) (addr : Word) :
    (s.afterPointer m).answer k addr = s.answer (pointerReads m + k) addr := by
  cases m <;> simp only [State.afterPointer, pointerReads, answer_logAccess, Nat.zero_add] <;> congr 1 <;> omega

theorem storesAt_afterPointer (m : MemMode) (s : State) (k : Nat) :
    (s.afterPointer m).storesAt k = s.storesAt (pointerReads m + k) := by
  cases m <;> simp only [State.afterPointer, pointerReads, storesAt_logAccess, Nat.zero_add] <;> congr 1 <;> omega

/-- Nothing but the bus changes with reads. -/
theorem afterPointer_eq (m : MemMode) (s : State) :
    s.afterPointer m = { s with bus := (s.afterPointer m).bus } ∧ (s.afterPointer m).bus.mem = s.bus.mem := by
  cases m <;> exact ⟨rfl, rfl⟩

/-! ### The operand byte of the read class -/

/-- The accesses of an operand. -/
def sourceAccesses (src : Source) (s : State) : List Access :=
  match src with
  | .imm _ => []
  | .mem m => pointerAccesses m s ++ [(.read, effectiveAddress m s)]

/-- The value of an operand. -/
def sourceByte (src : Source) (s : State) : Byte :=
  match src with
  | .imm nn => nn
  | .mem m => s.answer (pointerReads m) (effectiveAddress m s)

def sourceCross (src : Source) (s : State) : Bool :=
  match src with
  | .imm _ => false
  | .mem m => pageCrossed m s

/-- The state after the reads of an operand. -/
def State.afterSource (src : Source) (s : State) : State :=
  match src with
  | .imm _ => s
  | .mem m => (s.afterPointer m).afterRead (effectiveAddress m s)

theorem Script.readSource (src : Source) (s : State) :
    Script (readSource src s) s (sourceAccesses src s) (sourceByte src s, sourceCross src s) (s.afterSource src) := by
  cases src with
  | imm nn => exact Script.pure _ s
  | mem m =>
    refine Script.bind (Script.resolve m s) ?_
    refine Script.bind_pure (Script.read _ _) ?_ rfl (.refl _)
    rw [answer_afterPointer]
    rfl

/-- Nothing but the bus changes with reads. -/
theorem afterSource_eq (src : Source) (s : State) :
    s.afterSource src = { s with bus := (s.afterSource src).bus } ∧ (s.afterSource src).bus.mem = s.bus.mem := by
  cases src with
  | imm nn => exact ⟨rfl, rfl⟩
  | mem m => cases m <;> exact ⟨rfl, rfl⟩

/-! ### The stack -/

/-- The state after a push that the bus took (R14). -/
def State.pushed (v : Byte) (s : State) : State := (s.written (stackAddr s.sp) v).setSp (s.sp - 1)

/-- The state after a pull (R14). -/
def State.pulled (s : State) : State := (s.setSp (s.sp + 1)).afterRead (stackAddr (s.sp + 1))

/-- The byte a pull answers. -/
def State.pulledByte (s : State) : Byte := s.answer 0 (stackAddr (s.sp + 1))

theorem Script.push (v : Byte) (s : State) : Script (push v s) s [(.write, stackAddr s.sp)] () (s.pushed v) :=
  Script.bind_pure (Script.write _ v s) (by simp [State.pushed]) rfl (Quiet.setSp _ _).advances

theorem Script.pull (s : State) : Script (pull s) s [(.read, stackAddr (s.sp + 1))] s.pulledByte s.pulled :=
  (Script.read _ _).of_eq rfl (Quiet.setSp _ s).advances

/-! ### Interrupt entry and return -/

/-- An entry keeps Break (R404). -/
theorem statusWithI_brk (s : State) : (statusWithI s.status).getLsbD 4 = s.flag .b := by
  simpa [Flag.bit, State.flag] using getLsbD_statusWithI s.status .b

/-- A pull of P keeps Break (R42). -/
theorem pulledStatus_brk (v : Byte) (s : State) : (pulledStatus v s.status).getLsbD 4 = s.flag .b := by
  simpa [Flag.bit, State.flag] using getLsbD_pulledStatus v s.status .b

/-- The state after the three pushes of an entry. -/
def State.entryPushed (status : Byte) (s : State) : State := ((s.pushed (hiByte s.pc)).pushed (loByte s.pc)).pushed status

/-- The state an entry through `vector` leaves (R263, R404). -/
def State.entered (status : Byte) (vector : Word) (s : State) : State :=
  (((s.entryPushed status).setStatus (statusWithI s.status)).afterReads vector (vector + 1)).setPc
    (mkWord ((s.entryPushed status).answer 1 (vector + 1)) ((s.entryPushed status).answer 0 vector))

theorem stackAddr_sub (sp : Byte) (k : Nat) (h : k < 256) : stackAddr (sp - BitVec.ofNat 8 k) = stackLocation (sp.toNat + 256 - k) := by
  rw [stackAddr_eq, BitVec.toNat_sub, BitVec.toNat_ofNat, Nat.mod_eq_of_lt h]
  apply stackLocation_congr
  have := sp.isLt
  omega

theorem stackAddr_add (sp : Byte) (k : Nat) : stackAddr (sp + BitVec.ofNat 8 k) = stackLocation (sp.toNat + k) := by
  rw [stackAddr_eq, BitVec.toNat_add, BitVec.toNat_ofNat]
  apply stackLocation_congr
  omega

/-- The locations of successive pushes. -/
theorem stackAddr_pushes (sp : Byte) :
    stackAddr sp = stackLocation (sp.toNat + 256 - 0) ∧ stackAddr (sp - 1) = stackLocation (sp.toNat + 256 - 1) ∧
      stackAddr (sp - 1 - 1) = stackLocation (sp.toNat + 256 - 2) := by
  refine ⟨?_, stackAddr_sub sp 1 (by omega), ?_⟩
  · rw [stackAddr_eq]
    exact stackLocation_congr (by omega)
  · rw [← stackAddr_sub sp 2 (by omega)]
    congr 1
    bv_omega

/-- The locations of successive pulls. -/
theorem stackAddr_pulls (sp : Byte) :
    stackAddr (sp + 1) = stackLocation (sp.toNat + 1 + 0) ∧ stackAddr (sp + 1 + 1) = stackLocation (sp.toNat + 1 + 1) ∧
      stackAddr (sp + 1 + 1 + 1) = stackLocation (sp.toNat + 1 + 2) := by
  refine ⟨stackAddr_add sp 1, ?_, ?_⟩
  · rw [Nat.add_assoc, ← stackAddr_add]
    congr 1
    bv_omega
  · rw [Nat.add_assoc, ← stackAddr_add]
    congr 1
    bv_omega

theorem pushAccesses_one (s : State) : pushAccesses 1 s = [(.write, stackAddr s.sp)] := by
  rw [(stackAddr_pushes s.sp).1]
  rfl

theorem pushAccesses_two (s : State) : pushAccesses 2 s = [(.write, stackAddr s.sp), (.write, stackAddr (s.sp - 1))] := by
  rw [(stackAddr_pushes s.sp).1, (stackAddr_pushes s.sp).2.1]
  rfl

theorem pushAccesses_three (s : State) :
    pushAccesses 3 s = [(.write, stackAddr s.sp), (.write, stackAddr (s.sp - 1)), (.write, stackAddr (s.sp - 1 - 1))] := by
  rw [(stackAddr_pushes s.sp).1, (stackAddr_pushes s.sp).2.1, (stackAddr_pushes s.sp).2.2]
  rfl

theorem pullAccesses_one (s : State) : pullAccesses 1 s = [(.read, stackAddr (s.sp + 1))] := by
  rw [(stackAddr_pulls s.sp).1]
  rfl

theorem pullAccesses_two (s : State) : pullAccesses 2 s = [(.read, stackAddr (s.sp + 1)), (.read, stackAddr (s.sp + 1 + 1))] := by
  rw [(stackAddr_pulls s.sp).1, (stackAddr_pulls s.sp).2.1]
  rfl

theorem pullAccesses_three (s : State) :
    pullAccesses 3 s =
      [(.read, stackAddr (s.sp + 1)), (.read, stackAddr (s.sp + 1 + 1)), (.read, stackAddr (s.sp + 1 + 1 + 1))] := by
  rw [(stackAddr_pulls s.sp).1, (stackAddr_pulls s.sp).2.1, (stackAddr_pulls s.sp).2.2]
  rfl

theorem Script.pushTwo (a b : Byte) (s : State) :
    Script ((Machine.push a s).bind fun _ s1 => Machine.push b s1) s (pushAccesses 2 s) () ((s.pushed a).pushed b) := by
  rw [pushAccesses_two]
  exact Script.bind (as := [(.write, stackAddr s.sp)]) (Script.push a s) (Script.push b _)

theorem Script.takeException (status : Byte) (vector : Word) (s : State) :
    Script (takeException status vector s) s (pushAccesses 3 s ++ [(.read, vector), (.read, vector + 1)]) () (s.entered status vector) := by
  rw [pushAccesses_three]
  refine Script.bind (as := [(.write, stackAddr s.sp)]) (Script.push _ s) ?_
  refine Script.bind (as := [(.write, stackAddr (s.sp - 1))]) (Script.push _ _) ?_
  refine Script.bind (as := [(.write, stackAddr (s.sp - 1 - 1))]) (Script.push _ _) ?_
  refine Script.bind_pure ((Script.readWord vector _).of_eq rfl (Quiet.setStatus (statusWithI_brk _)).advances) ?_ rfl ?_
  · simp [State.entered, State.entryPushed, State.pushed]
  · simpa [State.entered, State.entryPushed, State.pushed] using Advances.setPc _ _

/-- The state a return leaves (R264). -/
def State.returned (s : State) : State :=
  (s.pulled.setStatus (pulledStatus s.pulledByte s.status)).pulled.pulled.setPc
    (mkWord s.pulled.pulled.pulledByte s.pulled.pulledByte)

theorem Script.returnFromException (s : State) : Script (returnFromException s) s (pullAccesses 3 s) () s.returned := by
  rw [pullAccesses_three]
  refine Script.bind (as := [(.read, stackAddr (s.sp + 1))]) (Script.pull s) ?_
  refine Script.bind (as := [(.read, stackAddr (s.sp + 1 + 1))]) ((Script.pull _).of_eq rfl (Quiet.setStatus (pulledStatus_brk _ _)).advances) ?_
  exact Script.bind_pure (Script.pull _) rfl rfl (.setPc _ _)

/-! ### The forms of instructions -/

theorem Script.readForm {effect : Byte → State → State} (he : ∀ v s, Quiet s (effect v s)) (base : Nat) (src : Source) (s : State) :
    ∃ r, readForm base effect src s = r.finish ∧
      Script r s (sourceAccesses src s) (base + crossCycles (sourceCross src s)) (effect (sourceByte src s) (s.afterSource src)) :=
  ⟨_, rfl, Script.bind_pure (Script.readSource src s) rfl (he _ _).bus (he _ _).advances⟩

theorem Script.storeForm {value : State → Byte} (base : Nat) (penalty : StorePenalty) (m : MemMode) (s : State)
    (hv : value (s.afterPointer m) = value s) :
    ∃ r, storeForm base penalty value m s = r.finish ∧
      Script r s (pointerAccesses m s ++ [(.write, effectiveAddress m s)]) (storeCycles base penalty s.params (pageCrossed m s))
        ((s.afterPointer m).written (effectiveAddress m s) (value s)) := by
  refine ⟨_, rfl, Script.bind (Script.resolve m s) ?_⟩
  rw [← hv]
  refine Script.bind_pure (Script.write _ _ _) ?_ rfl (.refl _)
  have h := (afterPointer_eq m s).1
  rw [State.written_params, show (s.afterPointer m).params = s.params by rw [h]]

theorem Script.modifyMemory {result : Byte → Bool → Byte} {flags : Byte → Byte → State → State}
    (hf : ∀ v r s, Quiet s (flags v r s)) (base : Nat) (m : MemMode) (s : State) {v r : Byte}
    (hv : v = s.answer (pointerReads m) (effectiveAddress m s)) (hr : r = result v (s.flag .c)) :
    ∃ res, modifyMemory base result flags m s = res.finish ∧
      Script res s (pointerAccesses m s ++ [(.read, effectiveAddress m s), (.write, effectiveAddress m s)]) base
        (flags v r (((s.afterPointer m).afterRead (effectiveAddress m s)).written (effectiveAddress m s) r)) := by
  refine ⟨_, rfl, Script.bind (Script.resolve m s) ?_⟩
  refine Script.bind (as := [(.read, effectiveAddress m s)]) (Script.read _ _) ?_
  have h := (afterPointer_eq m s).1
  have hc : ((s.afterPointer m).afterRead (effectiveAddress m s)).flag .c = s.flag .c := by
    rw [State.logAccess_flag, h]; rfl
  have hva : (s.afterPointer m).answer 0 (effectiveAddress m s) = v := by rw [answer_afterPointer, hv, Nat.add_zero]
  simp only [hva, hc, ← hr]
  exact Script.bind_pure (by simpa only [hva] using Script.write (effectiveAddress m s) r _) rfl (hf _ _ _).bus (hf _ _ _).advances

end Sys2Proof.Machine
end

