-- ==== Sys2Proof/Laws/Effects.lean ====
section
/-! SUPPORT. What the effects of the families leave alone. -/

namespace Sys2Proof.Machine

theorem Quiet.plpEffect (v : Byte) (s : State) : Quiet s (plpEffect v s) :=
  ⟨rfl, rfl, rfl, rfl, rfl, rfl, by rw [Machine.plpEffect, State.flag_setStatus, getLsbD_pulledStatus]; simp [State.flag],
    fun _ => State.setStatus_bit5 s _⟩

variable (v r : Byte) (s : State)

theorem ldaEffect_quiet : Quiet s (ldaEffect v s) := (Quiet.setA v s).trans (Quiet.setNZ v _)
theorem ldxEffect_quiet : Quiet s (ldxEffect v s) := (Quiet.setX v s).trans (Quiet.setNZ v _)
theorem ldyEffect_quiet : Quiet s (ldyEffect v s) := (Quiet.setY v s).trans (Quiet.setNZ v _)
theorem andEffect_quiet : Quiet s (andEffect v s) := (Quiet.setA _ s).trans (Quiet.setNZ _ _)
theorem oraEffect_quiet : Quiet s (oraEffect v s) := (Quiet.setA _ s).trans (Quiet.setNZ _ _)
theorem eorEffect_quiet : Quiet s (eorEffect v s) := (Quiet.setA _ s).trans (Quiet.setNZ _ _)
theorem cmpEffect_quiet : Quiet s (cmpEffect v s) := Quiet.compare _ _ s
theorem cpxEffect_quiet : Quiet s (cpxEffect v s) := Quiet.compare _ _ s
theorem cpyEffect_quiet : Quiet s (cpyEffect v s) := Quiet.compare _ _ s
theorem bitEffect_quiet : Quiet s (bitEffect v s) :=
  ((Quiet.setFlag (by decide) _ s).trans (Quiet.setFlag (by decide) _ _)).trans (Quiet.setFlag (by decide) _ _)
theorem adcEffect_quiet : Quiet s (adcEffect v s) := by
  unfold adcEffect; split
  exacts [Quiet.setDecimalResult _ _ s, Quiet.setAluResult _ s]
theorem sbcEffect_quiet : Quiet s (sbcEffect v s) := by
  unfold sbcEffect; split
  exacts [Quiet.setDecimalResult _ _ s, Quiet.setAluResult _ s]
theorem leftFlags_quiet : Quiet s (leftFlags v r s) := (Quiet.setFlag (by decide) _ s).trans (Quiet.setNZ _ _)
theorem rightFlags_quiet : Quiet s (rightFlags v r s) := (Quiet.setFlag (by decide) _ s).trans (Quiet.setNZ _ _)
theorem countFlags_quiet : Quiet s (countFlags v r s) := Quiet.setNZ _ s
theorem plaEffect_quiet : Quiet s (plaEffect v s) := (Quiet.setA v s).trans (Quiet.setNZ v _)
theorem plpEffect_quiet : Quiet s (plpEffect v s) := Quiet.plpEffect v s

theorem ldaEffect_bus : (ldaEffect v s).bus = s.bus := rfl
theorem ldxEffect_bus : (ldxEffect v s).bus = s.bus := rfl
theorem ldyEffect_bus : (ldyEffect v s).bus = s.bus := rfl
theorem andEffect_bus : (andEffect v s).bus = s.bus := rfl
theorem oraEffect_bus : (oraEffect v s).bus = s.bus := rfl
theorem eorEffect_bus : (eorEffect v s).bus = s.bus := rfl
theorem cmpEffect_bus : (cmpEffect v s).bus = s.bus := rfl
theorem cpxEffect_bus : (cpxEffect v s).bus = s.bus := rfl
theorem cpyEffect_bus : (cpyEffect v s).bus = s.bus := rfl
theorem bitEffect_bus : (bitEffect v s).bus = s.bus := rfl
theorem adcEffect_bus : (adcEffect v s).bus = s.bus := (adcEffect_quiet v s).bus
theorem sbcEffect_bus : (sbcEffect v s).bus = s.bus := (sbcEffect_quiet v s).bus
theorem leftFlags_bus : (leftFlags v r s).bus = s.bus := rfl
theorem rightFlags_bus : (rightFlags v r s).bus = s.bus := rfl
theorem countFlags_bus : (countFlags v r s).bus = s.bus := rfl
theorem plaEffect_bus : (plaEffect v s).bus = s.bus := rfl
theorem plpEffect_bus : (plpEffect v s).bus = s.bus := rfl

theorem afterPointer_a (m : MemMode) : (s.afterPointer m).a = s.a := by rw [(afterPointer_eq m s).1]
theorem afterPointer_x (m : MemMode) : (s.afterPointer m).x = s.x := by rw [(afterPointer_eq m s).1]
theorem afterPointer_y (m : MemMode) : (s.afterPointer m).y = s.y := by rw [(afterPointer_eq m s).1]

end Sys2Proof.Machine
end

