-- ==== Sys2Proof/Laws/Exec.lean ====
section
/-! SUPPORT. What each instruction answers, said once: its accesses, its count and the state it ends in. Later proofs cite `exec_runs` and
unfold no meaning. -/

namespace Sys2Proof.Machine

/-- The instruction `i` makes the accesses of R113 from `s`, and where the bus rejects none of them it answers `t` with the count `n`. -/
def Runs (i : Instr) (s : State) (n : Nat) (t : State) : Prop :=
  ∃ r, exec i s = r.finish ∧ Script r s (ruleAccesses i s) n t ∧ ruleCycles i s = some n

/-- The state after the reads of the operand, if there is one to read. -/
def State.afterOperand (i : Instr) (s : State) : State :=
  match i.operand with
  | .source src => s.afterSource src
  | .accumulator | .implied | .indirect _ | .relative _ => s

/-- The state after a store of `v`. -/
def State.storedTo (i : Instr) (v : Byte) (s : State) : State :=
  match i.memMode with
  | some m => (s.afterPointer m).written (effectiveAddress m s) v
  | none => s

/-- The state after a read-modify-write whose result is `r`, before the flags. -/
def State.modified (i : Instr) (r : Byte) (s : State) : State :=
  match i.memMode with
  | some m => ((s.afterPointer m).afterRead (effectiveAddress m s)).written (effectiveAddress m s) r
  | none => s.setA r

/-- The state after a branch. -/
def State.branched (i : Instr) (s : State) : State :=
  match i.operand with
  | .relative oo => if branchTaken i s then s.setPc (branchDestination oo s) else s
  | .source _ | .accumulator | .implied | .indirect _ => s

/-- The state after a JMP. -/
def State.jumped (i : Instr) (s : State) : State :=
  match i.operand with
  | .source (.mem (.abs addr)) => s.setPc addr
  | .indirect ptr =>
    (s.afterReads ptr (indirectHigh ptr)).setPc (mkWord (s.answer 1 (indirectHigh ptr)) (s.answer 0 ptr))
  | _ => s

/-- The state after a JSR, whose operand is an absolute address. -/
def State.called (i : Instr) (s : State) : State :=
  match i.operand with
  | .source (.mem (.abs addr)) => ((s.pushed (hiByte (s.pc - 1))).pushed (loByte (s.pc - 1))).setPc addr
  | _ => s

/-- The state that an instruction leaves, but for the count. -/
def finalState (i : Instr) (s : State) : State :=
  match i.mnemonic with
  | some .lda => ldaEffect (operandByte i s) (s.afterOperand i)
  | some .ldx => ldxEffect (operandByte i s) (s.afterOperand i)
  | some .ldy => ldyEffect (operandByte i s) (s.afterOperand i)
  | some .adc => adcEffect (operandByte i s) (s.afterOperand i)
  | some .sbc => sbcEffect (operandByte i s) (s.afterOperand i)
  | some .and => andEffect (operandByte i s) (s.afterOperand i)
  | some .ora => oraEffect (operandByte i s) (s.afterOperand i)
  | some .eor => eorEffect (operandByte i s) (s.afterOperand i)
  | some .bit => bitEffect (operandByte i s) (s.afterOperand i)
  | some .cmp => cmpEffect (operandByte i s) (s.afterOperand i)
  | some .cpx => cpxEffect (operandByte i s) (s.afterOperand i)
  | some .cpy => cpyEffect (operandByte i s) (s.afterOperand i)
  | some .sta => s.storedTo i s.a
  | some .stx => s.storedTo i s.x
  | some .sty => s.storedTo i s.y
  | some .asl => leftFlags (operandByte i s) (aslValue (operandByte i s) (s.flag .c)) (s.modified i (aslValue (operandByte i s) (s.flag .c)))
  | some .lsr => rightFlags (operandByte i s) (lsrValue (operandByte i s) (s.flag .c)) (s.modified i (lsrValue (operandByte i s) (s.flag .c)))
  | some .rol => leftFlags (operandByte i s) (rolValue (operandByte i s) (s.flag .c)) (s.modified i (rolValue (operandByte i s) (s.flag .c)))
  | some .ror => rightFlags (operandByte i s) (rorValue (operandByte i s) (s.flag .c)) (s.modified i (rorValue (operandByte i s) (s.flag .c)))
  | some .inc => countFlags (operandByte i s) (incValue (operandByte i s) (s.flag .c)) (s.modified i (incValue (operandByte i s) (s.flag .c)))
  | some .dec => countFlags (operandByte i s) (decValue (operandByte i s) (s.flag .c)) (s.modified i (decValue (operandByte i s) (s.flag .c)))
  | some .bcc | some .bcs | some .beq | some .bne | some .bmi | some .bpl | some .bvc | some .bvs => s.branched i
  | some .pha => s.pushed s.a
  | some .php => s.pushed (softwareStatus s.status)
  | some .pla => plaEffect s.pulledByte s.pulled
  | some .plp => plpEffect s.pulledByte s.pulled
  | some .jmp => s.jumped i
  | some .jsr => s.called i
  | some .rts => s.pulled.pulled.setPc (mkWord s.pulled.pulledByte s.pulledByte + 1)
  | some .brk => (s.setPc (s.pc + 1)).entered (softwareStatus s.status) irqVector
  | some .rti => s.returned
  | some .tax => (s.setX s.a).setNZ s.a
  | some .tay => (s.setY s.a).setNZ s.a
  | some .txa => (s.setA s.x).setNZ s.x
  | some .tya => (s.setA s.y).setNZ s.y
  | some .tsx => (s.setX s.sp).setNZ s.sp
  | some .txs => s.setSp s.x
  | some .inx => (s.setX (s.x + 1)).setNZ (s.x + 1)
  | some .iny => (s.setY (s.y + 1)).setNZ (s.y + 1)
  | some .dex => (s.setX (s.x - 1)).setNZ (s.x - 1)
  | some .dey => (s.setY (s.y - 1)).setNZ (s.y - 1)
  | some .clc => s.setFlag .c false
  | some .cld => s.setFlag .d false
  | some .cli => s.setFlag .i false
  | some .clv => s.setFlag .v false
  | some .sec => s.setFlag .c true
  | some .sed => s.setFlag .d true
  | some .sei => s.setFlag .i true
  | some .nop => s
  | none => s

/-! ### The classes -/

theorem runs_read {i : Instr} {s : State} {effect : Byte → State → State} {base : Nat} {src : Source}
    (he : ∀ v s, Quiet s (effect v s)) (hx : exec i s = readForm base effect src s) (ho : i.operand = .source src)
    (ha : ruleAccesses i s = sourceAccesses src s) (hc : ruleCycles i s = some (base + crossCycles (sourceCross src s))) :
    ∃ n, Runs i s n (effect (operandByte i s) (s.afterOperand i)) := by
  obtain ⟨r, h1, h2⟩ := Script.readForm he base src s
  refine ⟨_, r, by rw [hx, h1], ?_, hc⟩
  have hb : operandByte i s = sourceByte src s := by
    unfold operandByte sourceByte
    rw [ho]
    cases src <;> rfl
  have hs : s.afterOperand i = s.afterSource src := by
    unfold State.afterOperand
    rw [ho]
  rwa [ha, hb, hs]

theorem runs_store {i : Instr} {s : State} {value : State → Byte} {base : Nat} {penalty : StorePenalty} {m : MemMode}
    (hv : value (s.afterPointer m) = value s) (hx : exec i s = storeForm base penalty value m s) (hm : i.memMode = some m)
    (ha : ruleAccesses i s = pointerAccesses m s ++ [(.write, effectiveAddress m s)])
    (hc : ruleCycles i s = some (storeCycles base penalty s.params (pageCrossed m s))) : ∃ n, Runs i s n (s.storedTo i (value s)) := by
  obtain ⟨r, h1, h2⟩ := Script.storeForm base penalty m s hv
  refine ⟨_, r, by rw [hx, h1], ?_, hc⟩
  rw [ha, State.storedTo, hm]
  exact h2

theorem runs_modify {i : Instr} {s : State} {result : Byte → Bool → Byte} {flags : Byte → Byte → State → State} {base : Nat}
    {m : MemMode} (hf : ∀ v r s, Quiet s (flags v r s)) (hx : exec i s = modifyMemory base result flags m s)
    (hm : i.memMode = some m) (hb : operandByte i s = s.answer (pointerReads m) (effectiveAddress m s))
    (ha : ruleAccesses i s = pointerAccesses m s ++ [(.read, effectiveAddress m s), (.write, effectiveAddress m s)])
    (hc : ruleCycles i s = some base) :
    ∃ n, Runs i s n (flags (operandByte i s) (result (operandByte i s) (s.flag .c))
      (s.modified i (result (operandByte i s) (s.flag .c)))) := by
  obtain ⟨r, h1, h2⟩ := Script.modifyMemory hf base m s hb rfl
  refine ⟨_, r, by rw [hx, h1], ?_, hc⟩
  rw [ha, State.modified, hm]
  exact h2

theorem runs_pure {i : Instr} {s t : State} {n : Nat} (hx : exec i s = (Res.ok n t).finish) (ha : ruleAccesses i s = [])
    (hb : t.bus = s.bus) (hadv : Advances s t) (hc : ruleCycles i s = some n) : ∃ n, Runs i s n t := by
  refine ⟨n, _, hx, ?_, hc⟩
  rw [ha]
  exact { replies := by simp [hb]
          accessed := ⟨[], by simp [hb]⟩
          advances := hadv
          ok := fun _ => rfl
          rejected := fun k _ _ h => by simp at h }

theorem runs_branch {i : Instr} {s : State} {cond : Bool} {oo : Byte} (hx : exec i s = branchForm cond oo s)
    (ho : i.operand = .relative oo) (ht : branchTaken i s = cond) (ha : ruleAccesses i s = [])
    (hc : ruleCycles i s = some (2 + branchExtra i s)) : ∃ n, Runs i s n (s.branched i) := by
  have hs : s.branched i = if cond then s.setPc (branchDestination oo s) else s := by
    unfold State.branched
    rw [ho, ht]
  refine runs_pure (n := 2 + branchExtra i s) ?_ ha ?_ ?_ hc
  · rw [hx, hs, branchForm, branchTarget_eq, branchExtra, ho, ht]
    cases cond with
    | false => rfl
    | true =>
      simp only [if_true, crossCycles, ne_eq, decide_not, ← BitVec.toNat_inj, toNat_hiByte]
      split_ifs <;> simp_all
  · rw [hs]
    cases cond <;> rfl
  · rw [hs]
    cases cond
    exacts [.refl s, .setPc _ s]

theorem runs_push {i : Instr} {s : State} {v : Byte} (hx : exec i s = pushForm v s) (ha : ruleAccesses i s = pushAccesses 1 s)
    (hc : ruleCycles i s = some 3) : ∃ n, Runs i s n (s.pushed v) := by
  refine ⟨3, _, hx, ?_, hc⟩
  rw [ha, pushAccesses_one]
  exact Script.bind_pure (Script.push v s) rfl rfl (.refl _)

theorem runs_pull {i : Instr} {s : State} {effect : Byte → State → State} (he : ∀ v s, Quiet s (effect v s))
    (hx : exec i s = pullForm effect s) (ha : ruleAccesses i s = pullAccesses 1 s) (hc : ruleCycles i s = some 4) :
    ∃ n, Runs i s n (effect s.pulledByte s.pulled) := by
  refine ⟨4, _, hx, ?_, hc⟩
  rw [ha, pullAccesses_one]
  exact Script.bind_pure (Script.pull s) rfl (he _ _).bus (he _ _).advances

theorem runs_jmpInd (ptr : Word) (s : State) : ∃ n, Runs (.jmpInd ptr) s n (s.jumped (.jmpInd ptr)) :=
  ⟨5, _, rfl, Script.bind_pure (Script.resolveIndirect ptr s) rfl rfl (.setPc _ _), rfl⟩

theorem runs_jsr (addr : Word) (s : State) : ∃ n, Runs (.jsr addr) s n (s.called (.jsr addr)) := by
  refine ⟨6, _, rfl, ?_, rfl⟩
  show Script _ s (pushAccesses 2 s) 6 _
  rw [pushAccesses_two]
  refine Script.bind (as := [(.write, stackAddr s.sp)]) (Script.push _ s) ?_
  refine Script.bind_pure (Script.push _ _) ?_ rfl (.setPc _ _)
  simp [State.called, Instr.operand, State.pushed]

theorem runs_rts (s : State) : ∃ n, Runs .rts s n (s.pulled.pulled.setPc (mkWord s.pulled.pulledByte s.pulledByte + 1)) := by
  refine ⟨6, _, rfl, ?_, rfl⟩
  show Script _ s (pullAccesses 2 s) 6 _
  rw [pullAccesses_two]
  refine Script.bind (as := [(.read, stackAddr (s.sp + 1))]) (Script.pull s) ?_
  exact Script.bind_pure (Script.pull _) rfl rfl (.setPc _ _)

theorem runs_brk (s : State) : ∃ n, Runs .brk s n ((s.setPc (s.pc + 1)).entered (softwareStatus s.status) irqVector) := by
  refine ⟨7, _, rfl, ?_, rfl⟩
  have h := (Script.takeException (softwareStatus s.status) irqVector (s.setPc (s.pc + 1))).of_eq (s := s) rfl (.setPc _ _)
  exact Script.bind_pure h rfl rfl (.refl _)

/-- The count of an indexed store by its row (R120). -/
theorem rowCycles_store {d : OpcodeRow} (h : d.penalty = .store) (cross : Bool) (extra : Nat) (p : Params) :
    rowCycles d cross extra p = storeCycles d.baseCycles .indexed p cross := by
  unfold rowCycles storeCycles
  rw [h]
  cases p.storePagePenalty <;> rfl

theorem runs_rti (s : State) : ∃ n, Runs .rti s n s.returned :=
  ⟨6, _, rfl, Script.bind_pure (Script.returnFromException s) rfl rfl (.refl _), rfl⟩

/-! ### Every instruction -/

/-- Every legal instruction makes its accesses and, where the bus rejects none, answers its final state with its count. -/
theorem exec_runs (i : Instr) (s : State) (h : i.mnemonic ≠ none) : ∃ n, Runs i s n (finalState i s) := by
  cases i with
  | adcImm _ => exact runs_read adcEffect_quiet rfl rfl rfl rfl
  | adcZp _ => exact runs_read adcEffect_quiet rfl rfl rfl rfl
  | adcZpx _ => exact runs_read adcEffect_quiet rfl rfl rfl rfl
  | adcAbs _ => exact runs_read adcEffect_quiet rfl rfl rfl rfl
  | adcAbx _ => exact runs_read adcEffect_quiet rfl rfl rfl rfl
  | adcAby _ => exact runs_read adcEffect_quiet rfl rfl rfl rfl
  | adcIzx _ => exact runs_read adcEffect_quiet rfl rfl rfl rfl
  | adcIzy _ => exact runs_read adcEffect_quiet rfl rfl rfl rfl
  | sbcImm _ => exact runs_read sbcEffect_quiet rfl rfl rfl rfl
  | sbcZp _ => exact runs_read sbcEffect_quiet rfl rfl rfl rfl
  | sbcZpx _ => exact runs_read sbcEffect_quiet rfl rfl rfl rfl
  | sbcAbs _ => exact runs_read sbcEffect_quiet rfl rfl rfl rfl
  | sbcAbx _ => exact runs_read sbcEffect_quiet rfl rfl rfl rfl
  | sbcAby _ => exact runs_read sbcEffect_quiet rfl rfl rfl rfl
  | sbcIzx _ => exact runs_read sbcEffect_quiet rfl rfl rfl rfl
  | sbcIzy _ => exact runs_read sbcEffect_quiet rfl rfl rfl rfl
  | andImm _ => exact runs_read andEffect_quiet rfl rfl rfl rfl
  | andZp _ => exact runs_read andEffect_quiet rfl rfl rfl rfl
  | andZpx _ => exact runs_read andEffect_quiet rfl rfl rfl rfl
  | andAbs _ => exact runs_read andEffect_quiet rfl rfl rfl rfl
  | andAbx _ => exact runs_read andEffect_quiet rfl rfl rfl rfl
  | andAby _ => exact runs_read andEffect_quiet rfl rfl rfl rfl
  | andIzx _ => exact runs_read andEffect_quiet rfl rfl rfl rfl
  | andIzy _ => exact runs_read andEffect_quiet rfl rfl rfl rfl
  | oraImm _ => exact runs_read oraEffect_quiet rfl rfl rfl rfl
  | oraZp _ => exact runs_read oraEffect_quiet rfl rfl rfl rfl
  | oraZpx _ => exact runs_read oraEffect_quiet rfl rfl rfl rfl
  | oraAbs _ => exact runs_read oraEffect_quiet rfl rfl rfl rfl
  | oraAbx _ => exact runs_read oraEffect_quiet rfl rfl rfl rfl
  | oraAby _ => exact runs_read oraEffect_quiet rfl rfl rfl rfl
  | oraIzx _ => exact runs_read oraEffect_quiet rfl rfl rfl rfl
  | oraIzy _ => exact runs_read oraEffect_quiet rfl rfl rfl rfl
  | eorImm _ => exact runs_read eorEffect_quiet rfl rfl rfl rfl
  | eorZp _ => exact runs_read eorEffect_quiet rfl rfl rfl rfl
  | eorZpx _ => exact runs_read eorEffect_quiet rfl rfl rfl rfl
  | eorAbs _ => exact runs_read eorEffect_quiet rfl rfl rfl rfl
  | eorAbx _ => exact runs_read eorEffect_quiet rfl rfl rfl rfl
  | eorAby _ => exact runs_read eorEffect_quiet rfl rfl rfl rfl
  | eorIzx _ => exact runs_read eorEffect_quiet rfl rfl rfl rfl
  | eorIzy _ => exact runs_read eorEffect_quiet rfl rfl rfl rfl
  | bitZp _ => exact runs_read bitEffect_quiet rfl rfl rfl rfl
  | bitAbs _ => exact runs_read bitEffect_quiet rfl rfl rfl rfl
  | aslAcc => exact runs_pure rfl rfl rfl ((Quiet.setA _ s).trans (leftFlags_quiet _ _ _)).advances rfl
  | aslZp _ => exact runs_modify leftFlags_quiet rfl rfl rfl rfl rfl
  | aslZpx _ => exact runs_modify leftFlags_quiet rfl rfl rfl rfl rfl
  | aslAbs _ => exact runs_modify leftFlags_quiet rfl rfl rfl rfl rfl
  | aslAbx _ => exact runs_modify leftFlags_quiet rfl rfl rfl rfl rfl
  | lsrAcc => exact runs_pure rfl rfl rfl ((Quiet.setA _ s).trans (rightFlags_quiet _ _ _)).advances rfl
  | lsrZp _ => exact runs_modify rightFlags_quiet rfl rfl rfl rfl rfl
  | lsrZpx _ => exact runs_modify rightFlags_quiet rfl rfl rfl rfl rfl
  | lsrAbs _ => exact runs_modify rightFlags_quiet rfl rfl rfl rfl rfl
  | lsrAbx _ => exact runs_modify rightFlags_quiet rfl rfl rfl rfl rfl
  | rolAcc => exact runs_pure rfl rfl rfl ((Quiet.setA _ s).trans (leftFlags_quiet _ _ _)).advances rfl
  | rolZp _ => exact runs_modify leftFlags_quiet rfl rfl rfl rfl rfl
  | rolZpx _ => exact runs_modify leftFlags_quiet rfl rfl rfl rfl rfl
  | rolAbs _ => exact runs_modify leftFlags_quiet rfl rfl rfl rfl rfl
  | rolAbx _ => exact runs_modify leftFlags_quiet rfl rfl rfl rfl rfl
  | rorAcc => exact runs_pure rfl rfl rfl ((Quiet.setA _ s).trans (rightFlags_quiet _ _ _)).advances rfl
  | rorZp _ => exact runs_modify rightFlags_quiet rfl rfl rfl rfl rfl
  | rorZpx _ => exact runs_modify rightFlags_quiet rfl rfl rfl rfl rfl
  | rorAbs _ => exact runs_modify rightFlags_quiet rfl rfl rfl rfl rfl
  | rorAbx _ => exact runs_modify rightFlags_quiet rfl rfl rfl rfl rfl
  | cmpImm _ => exact runs_read cmpEffect_quiet rfl rfl rfl rfl
  | cmpZp _ => exact runs_read cmpEffect_quiet rfl rfl rfl rfl
  | cmpZpx _ => exact runs_read cmpEffect_quiet rfl rfl rfl rfl
  | cmpAbs _ => exact runs_read cmpEffect_quiet rfl rfl rfl rfl
  | cmpAbx _ => exact runs_read cmpEffect_quiet rfl rfl rfl rfl
  | cmpAby _ => exact runs_read cmpEffect_quiet rfl rfl rfl rfl
  | cmpIzx _ => exact runs_read cmpEffect_quiet rfl rfl rfl rfl
  | cmpIzy _ => exact runs_read cmpEffect_quiet rfl rfl rfl rfl
  | cpxImm _ => exact runs_read cpxEffect_quiet rfl rfl rfl rfl
  | cpxZp _ => exact runs_read cpxEffect_quiet rfl rfl rfl rfl
  | cpxAbs _ => exact runs_read cpxEffect_quiet rfl rfl rfl rfl
  | cpyImm _ => exact runs_read cpyEffect_quiet rfl rfl rfl rfl
  | cpyZp _ => exact runs_read cpyEffect_quiet rfl rfl rfl rfl
  | cpyAbs _ => exact runs_read cpyEffect_quiet rfl rfl rfl rfl
  | bcc _ => exact runs_branch rfl rfl rfl rfl rfl
  | bcs _ => exact runs_branch rfl rfl rfl rfl rfl
  | beq _ => exact runs_branch rfl rfl rfl rfl rfl
  | bne _ => exact runs_branch rfl rfl rfl rfl rfl
  | bmi _ => exact runs_branch rfl rfl rfl rfl rfl
  | bpl _ => exact runs_branch rfl rfl rfl rfl rfl
  | bvc _ => exact runs_branch rfl rfl rfl rfl rfl
  | bvs _ => exact runs_branch rfl rfl rfl rfl rfl
  | pha => exact runs_push rfl rfl rfl
  | php => exact runs_push rfl rfl rfl
  | pla => exact runs_pull plaEffect_quiet rfl rfl rfl
  | plp => exact runs_pull plpEffect_quiet rfl rfl rfl
  | jmpAbs _ => exact runs_pure rfl rfl rfl (.setPc _ s) rfl
  | jmpInd _ => exact runs_jmpInd _ s
  | jsr _ => exact runs_jsr _ s
  | rts => exact runs_rts s
  | brk => exact runs_brk s
  | rti => exact runs_rti s
  | tax => exact runs_pure rfl rfl rfl ((Quiet.setX _ s).trans (Quiet.setNZ _ _)).advances rfl
  | tay => exact runs_pure rfl rfl rfl ((Quiet.setY _ s).trans (Quiet.setNZ _ _)).advances rfl
  | txa => exact runs_pure rfl rfl rfl ((Quiet.setA _ s).trans (Quiet.setNZ _ _)).advances rfl
  | tya => exact runs_pure rfl rfl rfl ((Quiet.setA _ s).trans (Quiet.setNZ _ _)).advances rfl
  | tsx => exact runs_pure rfl rfl rfl ((Quiet.setX _ s).trans (Quiet.setNZ _ _)).advances rfl
  | txs => exact runs_pure rfl rfl rfl (Quiet.setSp _ s).advances rfl
  | inx => exact runs_pure rfl rfl rfl ((Quiet.setX _ s).trans (Quiet.setNZ _ _)).advances rfl
  | iny => exact runs_pure rfl rfl rfl ((Quiet.setY _ s).trans (Quiet.setNZ _ _)).advances rfl
  | dex => exact runs_pure rfl rfl rfl ((Quiet.setX _ s).trans (Quiet.setNZ _ _)).advances rfl
  | dey => exact runs_pure rfl rfl rfl ((Quiet.setY _ s).trans (Quiet.setNZ _ _)).advances rfl
  | incZp _ => exact runs_modify countFlags_quiet rfl rfl rfl rfl rfl
  | incZpx _ => exact runs_modify countFlags_quiet rfl rfl rfl rfl rfl
  | incAbs _ => exact runs_modify countFlags_quiet rfl rfl rfl rfl rfl
  | incAbx _ => exact runs_modify countFlags_quiet rfl rfl rfl rfl rfl
  | decZp _ => exact runs_modify countFlags_quiet rfl rfl rfl rfl rfl
  | decZpx _ => exact runs_modify countFlags_quiet rfl rfl rfl rfl rfl
  | decAbs _ => exact runs_modify countFlags_quiet rfl rfl rfl rfl rfl
  | decAbx _ => exact runs_modify countFlags_quiet rfl rfl rfl rfl rfl
  | ldaImm _ => exact runs_read ldaEffect_quiet rfl rfl rfl rfl
  | ldaZp _ => exact runs_read ldaEffect_quiet rfl rfl rfl rfl
  | ldaZpx _ => exact runs_read ldaEffect_quiet rfl rfl rfl rfl
  | ldaAbs _ => exact runs_read ldaEffect_quiet rfl rfl rfl rfl
  | ldaAbx _ => exact runs_read ldaEffect_quiet rfl rfl rfl rfl
  | ldaAby _ => exact runs_read ldaEffect_quiet rfl rfl rfl rfl
  | ldaIzx _ => exact runs_read ldaEffect_quiet rfl rfl rfl rfl
  | ldaIzy _ => exact runs_read ldaEffect_quiet rfl rfl rfl rfl
  | ldxImm _ => exact runs_read ldxEffect_quiet rfl rfl rfl rfl
  | ldxZp _ => exact runs_read ldxEffect_quiet rfl rfl rfl rfl
  | ldxZpy _ => exact runs_read ldxEffect_quiet rfl rfl rfl rfl
  | ldxAbs _ => exact runs_read ldxEffect_quiet rfl rfl rfl rfl
  | ldxAby _ => exact runs_read ldxEffect_quiet rfl rfl rfl rfl
  | ldyImm _ => exact runs_read ldyEffect_quiet rfl rfl rfl rfl
  | ldyZp _ => exact runs_read ldyEffect_quiet rfl rfl rfl rfl
  | ldyZpx _ => exact runs_read ldyEffect_quiet rfl rfl rfl rfl
  | ldyAbs _ => exact runs_read ldyEffect_quiet rfl rfl rfl rfl
  | ldyAbx _ => exact runs_read ldyEffect_quiet rfl rfl rfl rfl
  | staZp _ => exact runs_store (afterPointer_a s _) rfl rfl rfl rfl
  | staZpx _ => exact runs_store (afterPointer_a s _) rfl rfl rfl rfl
  | staAbs _ => exact runs_store (afterPointer_a s _) rfl rfl rfl rfl
  | staAbx _ => exact runs_store (afterPointer_a s _) rfl rfl rfl (congrArg some (rowCycles_store rfl _ _ _))
  | staAby _ => exact runs_store (afterPointer_a s _) rfl rfl rfl (congrArg some (rowCycles_store rfl _ _ _))
  | staIzx _ => exact runs_store (afterPointer_a s _) rfl rfl rfl rfl
  | staIzy _ => exact runs_store (afterPointer_a s _) rfl rfl rfl (congrArg some (rowCycles_store rfl _ _ _))
  | stxZp _ => exact runs_store (afterPointer_x s _) rfl rfl rfl rfl
  | stxZpy _ => exact runs_store (afterPointer_x s _) rfl rfl rfl rfl
  | stxAbs _ => exact runs_store (afterPointer_x s _) rfl rfl rfl rfl
  | styZp _ => exact runs_store (afterPointer_y s _) rfl rfl rfl rfl
  | styZpx _ => exact runs_store (afterPointer_y s _) rfl rfl rfl rfl
  | styAbs _ => exact runs_store (afterPointer_y s _) rfl rfl rfl rfl
  | clc => exact runs_pure rfl rfl rfl (Quiet.setFlag (by decide) _ s).advances rfl
  | cld => exact runs_pure rfl rfl rfl (Quiet.setFlag (by decide) _ s).advances rfl
  | cli => exact runs_pure rfl rfl rfl (Quiet.setFlag (by decide) _ s).advances rfl
  | clv => exact runs_pure rfl rfl rfl (Quiet.setFlag (by decide) _ s).advances rfl
  | sec => exact runs_pure rfl rfl rfl (Quiet.setFlag (by decide) _ s).advances rfl
  | sed => exact runs_pure rfl rfl rfl (Quiet.setFlag (by decide) _ s).advances rfl
  | sei => exact runs_pure rfl rfl rfl (Quiet.setFlag (by decide) _ s).advances rfl
  | nop => exact runs_pure rfl rfl rfl (.refl s) rfl
  | illegal op => exact absurd rfl h

end Sys2Proof.Machine
end

