-- ==== Sys2Proof/Laws/Fields.lean ====
section
/-! SUPPORT. The states that `exec_runs` names, field by field: what reads, stores, pushes and pulls leave alone. -/

namespace Sys2Proof.Machine.State

variable (s : State) (m : MemMode) (src : Source) (i : Instr) (v : Byte)

@[simp] theorem afterPointer_a : (s.afterPointer m).a = s.a := by cases m <;> rfl
@[simp] theorem afterPointer_x : (s.afterPointer m).x = s.x := by cases m <;> rfl
@[simp] theorem afterPointer_y : (s.afterPointer m).y = s.y := by cases m <;> rfl
@[simp] theorem afterPointer_sp : (s.afterPointer m).sp = s.sp := by cases m <;> rfl
@[simp] theorem afterPointer_pc : (s.afterPointer m).pc = s.pc := by cases m <;> rfl
@[simp] theorem afterPointer_p : (s.afterPointer m).p = s.p := by cases m <;> rfl
@[simp] theorem afterPointer_runState : (s.afterPointer m).runState = s.runState := by cases m <;> rfl
@[simp] theorem afterPointer_irqLine : (s.afterPointer m).irqLine = s.irqLine := by cases m <;> rfl
@[simp] theorem afterPointer_nmiPending : (s.afterPointer m).nmiPending = s.nmiPending := by cases m <;> rfl
@[simp] theorem afterPointer_params : (s.afterPointer m).params = s.params := by cases m <;> rfl
@[simp] theorem afterPointer_lastCycles : (s.afterPointer m).lastCycles = s.lastCycles := by cases m <;> rfl
@[simp] theorem afterPointer_freeCount : (s.afterPointer m).freeCount = s.freeCount := by cases m <;> rfl
@[simp] theorem afterPointer_status : (s.afterPointer m).status = s.status := by cases m <;> rfl
@[simp] theorem afterPointer_flag (f : Flag) : (s.afterPointer m).flag f = s.flag f := by cases m <;> rfl
@[simp] theorem afterPointer_mem : (s.afterPointer m).bus.mem = s.bus.mem := by cases m <;> rfl
@[simp] theorem afterPointer_byteAt (k : Word) : (s.afterPointer m).byteAt k = s.byteAt k := by cases m <;> rfl

@[simp] theorem afterSource_a : (s.afterSource src).a = s.a := by cases src with | imm _ => rfl | mem m => cases m <;> rfl
@[simp] theorem afterSource_x : (s.afterSource src).x = s.x := by cases src with | imm _ => rfl | mem m => cases m <;> rfl
@[simp] theorem afterSource_y : (s.afterSource src).y = s.y := by cases src with | imm _ => rfl | mem m => cases m <;> rfl
@[simp] theorem afterSource_sp : (s.afterSource src).sp = s.sp := by cases src with | imm _ => rfl | mem m => cases m <;> rfl
@[simp] theorem afterSource_pc : (s.afterSource src).pc = s.pc := by cases src with | imm _ => rfl | mem m => cases m <;> rfl
@[simp] theorem afterSource_p : (s.afterSource src).p = s.p := by cases src with | imm _ => rfl | mem m => cases m <;> rfl
@[simp] theorem afterSource_runState : (s.afterSource src).runState = s.runState := by cases src with | imm _ => rfl | mem m => cases m <;> rfl
@[simp] theorem afterSource_irqLine : (s.afterSource src).irqLine = s.irqLine := by cases src with | imm _ => rfl | mem m => cases m <;> rfl
@[simp] theorem afterSource_nmiPending : (s.afterSource src).nmiPending = s.nmiPending := by cases src with | imm _ => rfl | mem m => cases m <;> rfl
@[simp] theorem afterSource_params : (s.afterSource src).params = s.params := by cases src with | imm _ => rfl | mem m => cases m <;> rfl
@[simp] theorem afterSource_lastCycles : (s.afterSource src).lastCycles = s.lastCycles := by cases src with | imm _ => rfl | mem m => cases m <;> rfl
@[simp] theorem afterSource_freeCount : (s.afterSource src).freeCount = s.freeCount := by cases src with | imm _ => rfl | mem m => cases m <;> rfl
@[simp] theorem afterSource_status : (s.afterSource src).status = s.status := by cases src with | imm _ => rfl | mem m => cases m <;> rfl
@[simp] theorem afterSource_flag (f : Flag) : (s.afterSource src).flag f = s.flag f := by cases src with | imm _ => rfl | mem m => cases m <;> rfl
@[simp] theorem afterSource_mem : (s.afterSource src).bus.mem = s.bus.mem := by cases src with | imm _ => rfl | mem m => cases m <;> rfl
@[simp] theorem afterSource_byteAt (k : Word) : (s.afterSource src).byteAt k = s.byteAt k := by cases src with | imm _ => rfl | mem m => cases m <;> rfl

@[simp] theorem afterOperand_a : (s.afterOperand i).a = s.a := by unfold afterOperand; split <;> simp
@[simp] theorem afterOperand_x : (s.afterOperand i).x = s.x := by unfold afterOperand; split <;> simp
@[simp] theorem afterOperand_y : (s.afterOperand i).y = s.y := by unfold afterOperand; split <;> simp
@[simp] theorem afterOperand_sp : (s.afterOperand i).sp = s.sp := by unfold afterOperand; split <;> simp
@[simp] theorem afterOperand_pc : (s.afterOperand i).pc = s.pc := by unfold afterOperand; split <;> simp
@[simp] theorem afterOperand_p : (s.afterOperand i).p = s.p := by unfold afterOperand; split <;> simp
@[simp] theorem afterOperand_runState : (s.afterOperand i).runState = s.runState := by unfold afterOperand; split <;> simp
@[simp] theorem afterOperand_irqLine : (s.afterOperand i).irqLine = s.irqLine := by unfold afterOperand; split <;> simp
@[simp] theorem afterOperand_nmiPending : (s.afterOperand i).nmiPending = s.nmiPending := by unfold afterOperand; split <;> simp
@[simp] theorem afterOperand_params : (s.afterOperand i).params = s.params := by unfold afterOperand; split <;> simp
@[simp] theorem afterOperand_lastCycles : (s.afterOperand i).lastCycles = s.lastCycles := by unfold afterOperand; split <;> simp
@[simp] theorem afterOperand_freeCount : (s.afterOperand i).freeCount = s.freeCount := by unfold afterOperand; split <;> simp
@[simp] theorem afterOperand_status : (s.afterOperand i).status = s.status := by unfold afterOperand; split <;> simp
@[simp] theorem afterOperand_flag (f : Flag) : (s.afterOperand i).flag f = s.flag f := by unfold afterOperand; split <;> simp
@[simp] theorem afterOperand_mem : (s.afterOperand i).bus.mem = s.bus.mem := by unfold afterOperand; split <;> simp
@[simp] theorem afterOperand_byteAt (k : Word) : (s.afterOperand i).byteAt k = s.byteAt k := by unfold afterOperand; split <;> simp

@[simp] theorem pushed_a : (s.pushed v).a = s.a := by simp [pushed]
@[simp] theorem pushed_x : (s.pushed v).x = s.x := by simp [pushed]
@[simp] theorem pushed_y : (s.pushed v).y = s.y := by simp [pushed]
@[simp] theorem pushed_pc : (s.pushed v).pc = s.pc := by simp [pushed]
@[simp] theorem pushed_p : (s.pushed v).p = s.p := by simp [pushed]
@[simp] theorem pushed_runState : (s.pushed v).runState = s.runState := by simp [pushed]
@[simp] theorem pushed_irqLine : (s.pushed v).irqLine = s.irqLine := by simp [pushed]
@[simp] theorem pushed_nmiPending : (s.pushed v).nmiPending = s.nmiPending := by simp [pushed]
@[simp] theorem pushed_params : (s.pushed v).params = s.params := by simp [pushed]
@[simp] theorem pushed_lastCycles : (s.pushed v).lastCycles = s.lastCycles := by simp [pushed]
@[simp] theorem pushed_freeCount : (s.pushed v).freeCount = s.freeCount := by simp [pushed]
@[simp] theorem pushed_status : (s.pushed v).status = s.status := by simp [pushed]
@[simp] theorem pushed_sp : (s.pushed v).sp = s.sp - 1 := rfl
@[simp] theorem pushed_flag (f : Flag) : (s.pushed v).flag f = s.flag f := by simp [pushed]

@[simp] theorem pulled_a : s.pulled.a = s.a := rfl
@[simp] theorem pulled_x : s.pulled.x = s.x := rfl
@[simp] theorem pulled_y : s.pulled.y = s.y := rfl
@[simp] theorem pulled_pc : s.pulled.pc = s.pc := rfl
@[simp] theorem pulled_p : s.pulled.p = s.p := rfl
@[simp] theorem pulled_runState : s.pulled.runState = s.runState := rfl
@[simp] theorem pulled_irqLine : s.pulled.irqLine = s.irqLine := rfl
@[simp] theorem pulled_nmiPending : s.pulled.nmiPending = s.nmiPending := rfl
@[simp] theorem pulled_params : s.pulled.params = s.params := rfl
@[simp] theorem pulled_lastCycles : s.pulled.lastCycles = s.lastCycles := rfl
@[simp] theorem pulled_freeCount : s.pulled.freeCount = s.freeCount := rfl
@[simp] theorem pulled_status : s.pulled.status = s.status := rfl
@[simp] theorem pulled_sp : s.pulled.sp = s.sp + 1 := rfl
@[simp] theorem pulled_flag (f : Flag) : s.pulled.flag f = s.flag f := rfl
@[simp] theorem pulled_mem : s.pulled.bus.mem = s.bus.mem := rfl
@[simp] theorem pulled_byteAt (k : Word) : s.pulled.byteAt k = s.byteAt k := rfl

/-- Pushes keep the canonical form. -/
theorem pushed_wf (h : Memory.wf s.bus.mem = true) : Memory.wf (s.pushed v).bus.mem = true := written_wf s _ v h

/-- The byte pushed is at the location SP designated, where the plain memory took it. -/
theorem pushed_byteAt_same (h : Memory.wf s.bus.mem = true) :
    (s.pushed v).byteAt (stackAddr s.sp) = if s.storesAt 0 then v else s.byteAt (stackAddr s.sp) := written_byteAt_same s _ v h

/-- No other byte changes. -/
theorem pushed_byteAt_ne (h : Memory.wf s.bus.mem = true) {b : Word} (hne : b ≠ stackAddr s.sp) :
    (s.pushed v).byteAt b = s.byteAt b := written_byteAt_ne s _ v h hne

theorem pushed_answer_ne (h : Memory.wf s.bus.mem = true) {b : Word} (hne : b ≠ stackAddr s.sp) (k : Nat) :
    (s.pushed v).answer k b = s.answer (k + 1) b := written_answer_ne s _ v h hne k

@[simp] theorem pushed_storesAt (k : Nat) : (s.pushed v).storesAt k = s.storesAt (k + 1) := written_storesAt s _ v k

@[simp] theorem pulled_answer (k : Nat) (b : Word) : s.pulled.answer k b = s.answer (k + 1) b := answer_logAccess (s := s.setSp _) _ k b

/-- Nothing in page 1 is in another page. -/
theorem ne_stackAddr {b : Word} {sp : Byte} (h : hiByte b ≠ 0x01#8) : b ≠ stackAddr sp := by
  rintro rfl
  exact h (hiByte_mkWord _ _)

end Sys2Proof.Machine.State
end

