-- ==== Sys2Proof/Laws/Fetch.lean ====
section
/-! SUPPORT. Fetching an instruction: what the bytes at PC decode to is what the step fetches, and what the fetch leaves. -/

namespace Sys2Proof

/-- A row found is a row of the table, for the byte looked up. -/
theorem mem_of_lookup {op : Byte} {d : OpcodeRow} (h : lookup op = some d) : d ∈ opcodeTable ∧ d.opcode = op := by
  unfold lookup at h
  exact ⟨List.mem_of_find?_eq_some h, by simpa using List.find?_some h⟩

/-- What holds of the rows of each part of the table holds of every row. -/
theorem forall_opcodeTable {P : OpcodeRow → Prop} (h0 : ∀ d ∈ opcodeRows0x, P d) (h1 : ∀ d ∈ opcodeRows1x, P d)
    (h2 : ∀ d ∈ opcodeRows2x, P d) (h3 : ∀ d ∈ opcodeRows3x, P d) (h4 : ∀ d ∈ opcodeRows4x, P d) (h5 : ∀ d ∈ opcodeRows5x, P d)
    (h6 : ∀ d ∈ opcodeRows6x, P d) (h7 : ∀ d ∈ opcodeRows7x, P d) (h8 : ∀ d ∈ opcodeRows8x, P d) (h9 : ∀ d ∈ opcodeRows9x, P d)
    (hA : ∀ d ∈ opcodeRowsAx, P d) (hB : ∀ d ∈ opcodeRowsBx, P d) (hC : ∀ d ∈ opcodeRowsCx, P d) (hD : ∀ d ∈ opcodeRowsDx, P d)
    (hE : ∀ d ∈ opcodeRowsEx, P d) (hF : ∀ d ∈ opcodeRowsFx, P d) : ∀ d ∈ opcodeTable, P d := by
  intro d hd
  simp only [opcodeTable, List.mem_append, or_assoc] at hd
  rcases hd with h | h | h | h | h | h | h | h | h | h | h | h | h | h | h | h
  exacts [h0 d h, h1 d h, h2 d h, h3 d h, h4 d h, h5 d h, h6 d h, h7 d h, h8 d h, h9 d h, hA d h, hB d h, hC d h, hD d h, hE d h, hF d h]

/-- The number of operand bytes. -/
def OperandSize.count : OperandSize → Nat
  | .none => 0
  | .byte => 1
  | .word => 2

/-- The rows build instructions whose bytes are as many as the row's mode says (R101, R118), with the row's opcode and mnemonic. -/
theorem row_builds : ∀ d ∈ opcodeTable, ∀ b c : Byte,
    (d.build b c).fetchLength = 1 + d.mode.operandSize.count ∧ (d.build b c).opcode = d.opcode ∧
      (d.build b c).mnemonic = some d.mnemonic ∧ (d.build b c).wf = true := by
  apply forall_opcodeTable
  all_goals
    simp only [opcodeRows0x, opcodeRows1x, opcodeRows2x, opcodeRows3x, opcodeRows4x, opcodeRows5x, opcodeRows6x, opcodeRows7x,
      opcodeRows8x, opcodeRows9x, opcodeRowsAx, opcodeRowsBx, opcodeRowsCx, opcodeRowsDx, opcodeRowsEx, opcodeRowsFx,
      List.forall_mem_cons, List.not_mem_nil, false_imp_iff, implies_true, and_true]
    repeat' apply And.intro
  all_goals exact fun _ _ => ⟨rfl, rfl, rfl, rfl⟩

namespace Machine

/-- The state after fetching `n` bytes at PC. -/
def State.fetched : Nat → State → State
  | 0, s => s
  | n + 1, s => State.fetched n ((s.afterRead s.pc).setPc (s.pc + 1))

/-- The reads of `n` bytes at `pc`. -/
def fetchAccesses : Nat → Word → List Access
  | 0, _ => []
  | n + 1, pc => (.read, pc) :: fetchAccesses n (pc + 1)

theorem Script.fetchByte (s : State) :
    Script (fetchByte s) s [(.read, s.pc)] (s.answer 0 s.pc) ((s.afterRead s.pc).setPc (s.pc + 1)) :=
  Script.bind_pure (Script.read s.pc s) rfl rfl (.setPc _ _)

/-- A step fetches what the bytes at PC decode to, and reads its bytes only (R113, R119). -/
theorem Script.fetchInstr {s : State} {i : Instr} {rest : List Byte}
    (h : decode [s.answer 0 s.pc, s.answer 1 (s.pc + 1), s.answer 2 (s.pc + 2)] = .ok (i, rest)) :
    Script (fetchInstr s) s (fetchAccesses i.fetchLength s.pc) i (s.fetched i.fetchLength) := by
  rw [show s.pc + 2 = s.pc + 1 + 1 by bv_omega] at h
  cases hl : lookup (s.answer 0 s.pc) with
  | none =>
    simp only [decode, hl, Except.ok.injEq, Prod.mk.injEq] at h
    obtain ⟨rfl, -⟩ := h
    exact (Script.fetchByte s).bind_pure (by simp only [fetchOperands, hl]; rfl) rfl (.refl _)
  | some d =>
    have hd := row_builds d (mem_of_lookup hl).1
    cases hs : d.mode.operandSize with
    | none =>
      simp only [decode, hl, hs, Except.ok.injEq, Prod.mk.injEq] at h
      obtain ⟨rfl, -⟩ := h
      rw [(hd 0 0).1, hs]
      exact (Script.fetchByte s).bind_pure (by simp only [fetchOperands, hl, hs]; rfl) rfl (.refl _)
    | byte =>
      simp only [decode, hl, hs, Except.ok.injEq, Prod.mk.injEq] at h
      obtain ⟨rfl, -⟩ := h
      rw [(hd _ 0).1, hs]
      refine (Script.fetchByte s).bind (bs := [(.read, s.pc + 1)]) ?_
      simp only [fetchOperands, hl, hs]
      refine (Script.fetchByte _).bind_pure ?_ rfl (.refl _)
      simp only [State.setPc_pc, State.setPc_answer, answer_logAccess, Nat.zero_add]
      rfl
    | word =>
      simp only [decode, hl, hs, Except.ok.injEq, Prod.mk.injEq] at h
      obtain ⟨rfl, -⟩ := h
      rw [(hd _ _).1, hs]
      refine (Script.fetchByte s).bind (bs := [(.read, s.pc + 1), (.read, s.pc + 1 + 1)]) ?_
      simp only [fetchOperands, hl, hs]
      refine (Script.fetchByte _).bind (bs := [(.read, s.pc + 1 + 1)]) ?_
      refine (Script.fetchByte _).bind_pure ?_ rfl (.refl _)
      simp only [State.setPc_pc, State.setPc_answer, answer_logAccess, Nat.zero_add]
      rfl

end Machine

end Sys2Proof
end

