-- ==== Sys2Proof/Laws/Encoding.lean ====
section
/-! SUPPORT. The encoder and the rows of the opcode table: what a row builds has the row's bytes. -/

namespace Sys2Proof

/-- The bytes after the opcode byte of what a row builds from two operand bytes (R101, R121). -/
def OpcodeRow.operandBytes (d : OpcodeRow) (b c : Byte) : List Byte :=
  match d.mode.operandSize with
  | .none => List.replicate d.padding 0x00#8
  | .byte => [b]
  | .word => [b, c]

/-- The bytes of what a row builds are its opcode byte and the operand bytes it was built from (R101, R115). -/
theorem encode_build : ∀ d ∈ opcodeTable, ∀ b c : Byte, encode (d.build b c) = d.opcode :: d.operandBytes b c := by
  apply forall_opcodeTable
  all_goals
    simp only [opcodeRows0x, opcodeRows1x, opcodeRows2x, opcodeRows3x, opcodeRows4x, opcodeRows5x, opcodeRows6x, opcodeRows7x,
      opcodeRows8x, opcodeRows9x, opcodeRowsAx, opcodeRowsBx, opcodeRowsCx, opcodeRowsDx, opcodeRowsEx, opcodeRowsFx,
      List.forall_mem_cons, List.not_mem_nil, false_imp_iff, implies_true, and_true]
    repeat' apply And.intro
  all_goals first | exact fun _ _ => rfl | simp [encode, OpcodeRow.operandBytes, Mode.operandSize]

/-- Only the row of BRK has padding (R101). -/
theorem padding_eq_zero {d : OpcodeRow} (h : d.mnemonic ≠ .brk) : d.padding = 0 := if_neg h

end Sys2Proof
end

