-- ==== Sys2Proof/Laws/Stack.lean ====
section
/-! SUPPORT. Pushes, stores and interrupt entry in the terms of the statements: where the bytes go, and what else stays. -/

namespace Sys2Proof.Machine

/-! ### The stack's locations (R14, R36) -/

theorem stackLocation_sp (sp : Byte) : stackLocation sp.toNat = stackAddr sp := (stackAddr_eq sp).symm

theorem stackLocation_sub_one (sp : Byte) : stackLocation (sp.toNat + 255) = stackAddr (sp - 1) := by
  rw [(stackAddr_pushes sp).2.1]; rfl

theorem stackLocation_sub_two (sp : Byte) : stackLocation (sp.toNat + 254) = stackAddr (sp - 1 - 1) := by
  rw [(stackAddr_pushes sp).2.2]; rfl

theorem stackLocation_add_one (sp : Byte) : stackLocation (sp.toNat + 1) = stackAddr (sp + 1) := by
  rw [(stackAddr_pulls sp).1]

theorem stackLocation_add_two (sp : Byte) : stackLocation (sp.toNat + 2) = stackAddr (sp + 1 + 1) := by
  rw [(stackAddr_pulls sp).2.1]

theorem stackLocation_add_three (sp : Byte) : stackLocation (sp.toNat + 3) = stackAddr (sp + 1 + 1 + 1) := by
  rw [(stackAddr_pulls sp).2.2]

theorem sp_ne_sub_one (sp : Byte) : sp ≠ sp - 1 := by bv_omega

theorem sp_ne_sub_two (sp : Byte) : sp ≠ sp - 1 - 1 := by bv_omega

/-! ### What is stored -/

variable {s : State}

/-- A statement about memory holds of any state with the same bytes. -/
theorem Stored.congr {k : Nat} {addr : Word} {v : Byte} {t t' : State} (h : Stored k addr v s t)
    (hb : t'.byteAt addr = t.byteAt addr) : Stored k addr v s t' := ⟨fun hs => hb.trans (h.1 hs), fun hs => hb.trans (h.2 hs)⟩

theorem SameMemoryBut.congr {as : List Word} {t t' : State} (h : SameMemoryBut as s t) (hb : ∀ b, t'.byteAt b = t.byteAt b) :
    SameMemoryBut as s t' := fun b hn => (hb b).trans (h b hn)

/-- Statements about memory depend on the bus of the first state alone. -/
theorem Stored.congr_left {k : Nat} {addr : Word} {v : Byte} {s' t : State} (h : Stored k addr v s' t) (hb : s'.bus = s.bus) :
    Stored k addr v s t := by
  unfold Stored State.storesAt State.byteAt at *
  rwa [hb] at h

theorem SameMemoryBut.congr_left {as : List Word} {s' t : State} (h : SameMemoryBut as s' t) (hb : s'.bus = s.bus) :
    SameMemoryBut as s t := by
  unfold SameMemoryBut State.byteAt at *
  rwa [hb] at h

/-- The count has no part in what is stored or framed. -/
@[simp] theorem stored_setLastCycles {k : Nat} {addr : Word} {v : Byte} {t : State} {n : Option Nat} :
    Stored k addr v s (t.setLastCycles n) ↔ Stored k addr v s t := by
  unfold Stored
  rw [State.setLastCycles_byteAt]

@[simp] theorem sameMemoryBut_setLastCycles {as : List Word} {t : State} {n : Option Nat} :
    SameMemoryBut as s (t.setLastCycles n) ↔ SameMemoryBut as s t := by
  unfold SameMemoryBut
  simp only [State.setLastCycles_byteAt]

@[simp] theorem frame_setLastCycles {regs : List Reg} {flags : List Flag} {t : State} {n : Option Nat} :
    Frame regs flags s (t.setLastCycles n) ↔ Frame regs flags s t := by
  have h : ∀ r, (t.setLastCycles n).reg r = t.reg r := fun r => by cases r <;> rfl
  unfold Frame
  simp only [h, State.setLastCycles_flag, State.setLastCycles_runState, State.setLastCycles_irqLine, State.setLastCycles_nmiPending,
    State.setLastCycles_params, State.setLastCycles_freeCount]

/-- PC has no part in a frame. -/
theorem frame_setPc_left {regs : List Reg} {flags : List Flag} {t : State} {w : Word} :
    Frame regs flags (s.setPc w) t ↔ Frame regs flags s t := by
  have h : ∀ r, (s.setPc w).reg r = s.reg r := fun r => by cases r <;> rfl
  unfold Frame
  simp only [h, State.setPc_flag, State.setPc_runState, State.setPc_irqLine, State.setPc_nmiPending, State.setPc_params,
    State.setPc_freeCount]

/-- A store's effect on memory. -/
theorem stored_storedTo (m : MemMode) (v : Byte) (hw : Memory.wf s.bus.mem = true) :
    Stored (pointerReads m) (effectiveAddress m s) v s ((s.afterPointer m).written (effectiveAddress m s) v) ∧
      SameMemoryBut [effectiveAddress m s] s ((s.afterPointer m).written (effectiveAddress m s) v) := by
  have hw' : Memory.wf (s.afterPointer m).bus.mem = true := by simpa using hw
  have hs := storesAt_afterPointer m s 0
  rw [Nat.add_zero] at hs
  refine ⟨⟨fun h => ?_, fun h => ?_⟩, fun b hb => ?_⟩
  · rw [State.written_byteAt_same _ _ _ hw', hs, h, if_pos rfl]
  · rw [State.written_byteAt_same _ _ _ hw', hs, h, if_neg Bool.false_ne_true, State.afterPointer_byteAt]
  · rw [State.written_byteAt_ne _ _ _ hw' (by simpa using hb), State.afterPointer_byteAt]

/-- A read-modify-write's effect on memory. -/
theorem stored_modified (m : MemMode) (v : Byte) (hw : Memory.wf s.bus.mem = true) :
    Stored (pointerReads m + 1) (effectiveAddress m s) v s
        (((s.afterPointer m).afterRead (effectiveAddress m s)).written (effectiveAddress m s) v) ∧
      SameMemoryBut [effectiveAddress m s] s
        (((s.afterPointer m).afterRead (effectiveAddress m s)).written (effectiveAddress m s) v) := by
  have hw' : Memory.wf ((s.afterPointer m).afterRead (effectiveAddress m s)).bus.mem = true := by simpa using hw
  have hs := storesAt_afterPointer m s 1
  refine ⟨⟨fun h => ?_, fun h => ?_⟩, fun b hb => ?_⟩
  · rw [State.written_byteAt_same _ _ _ hw', storesAt_logAccess, hs, h, if_pos rfl]
  · rw [State.written_byteAt_same _ _ _ hw', storesAt_logAccess, hs, h, if_neg Bool.false_ne_true, State.logAccess_byteAt,
      State.afterPointer_byteAt]
  · rw [State.written_byteAt_ne _ _ _ hw' (by simpa using hb), State.logAccess_byteAt, State.afterPointer_byteAt]

/-- One push. -/
theorem stored_pushed (v : Byte) (hw : Memory.wf s.bus.mem = true) :
    Stored 0 (stackAddr s.sp) v s (s.pushed v) ∧ SameMemoryBut [stackAddr s.sp] s (s.pushed v) := by
  refine ⟨⟨fun h => ?_, fun h => ?_⟩, fun b hb => ?_⟩
  · rw [State.pushed_byteAt_same _ _ hw, h, if_pos rfl]
  · rw [State.pushed_byteAt_same _ _ hw, h, if_neg Bool.false_ne_true]
  · rw [State.pushed_byteAt_ne _ _ hw (by simpa using hb)]

/-- Two pushes. -/
theorem stored_pushed_two (v w : Byte) (hw : Memory.wf s.bus.mem = true) :
    Stored 0 (stackAddr s.sp) v s ((s.pushed v).pushed w) ∧ Stored 1 (stackAddr (s.sp - 1)) w s ((s.pushed v).pushed w) ∧
      SameMemoryBut [stackAddr s.sp, stackAddr (s.sp - 1)] s ((s.pushed v).pushed w) := by
  obtain ⟨a1, a2⟩ := stored_pushed v hw
  obtain ⟨b1, b2⟩ := stored_pushed w (State.pushed_wf s v hw)
  rw [State.pushed_sp] at b1 b2
  have e0 := b2 (stackAddr s.sp) (by simpa using sp_ne_sub_one s.sp)
  have e1 := a2 (stackAddr (s.sp - 1)) (by simp)
  refine ⟨a1.congr e0, ⟨fun h => b1.1 (by simpa using h), fun h => (b1.2 (by simpa using h)).trans e1⟩, fun b hb => ?_⟩
  simp only [List.mem_cons, List.not_mem_nil, or_false, not_or] at hb
  rw [b2 b (by simpa using hb.2), a2 b (by simpa using hb.1)]

/-- Three pushes. -/
theorem stored_pushed_three (v w x : Byte) (hw : Memory.wf s.bus.mem = true) :
    Stored 0 (stackAddr s.sp) v s (((s.pushed v).pushed w).pushed x) ∧
      Stored 1 (stackAddr (s.sp - 1)) w s (((s.pushed v).pushed w).pushed x) ∧
      Stored 2 (stackAddr (s.sp - 1 - 1)) x s (((s.pushed v).pushed w).pushed x) ∧
      SameMemoryBut [stackAddr s.sp, stackAddr (s.sp - 1), stackAddr (s.sp - 1 - 1)] s (((s.pushed v).pushed w).pushed x) := by
  obtain ⟨a0, a1, a2⟩ := stored_pushed_two v w hw
  obtain ⟨b1, b2⟩ := stored_pushed x (State.pushed_wf _ w (State.pushed_wf s v hw))
  rw [State.pushed_sp, State.pushed_sp] at b1 b2
  have e0 := b2 (stackAddr s.sp) (by simpa using sp_ne_sub_two s.sp)
  have e1 := b2 (stackAddr (s.sp - 1)) (by simpa using sp_ne_sub_one (s.sp - 1))
  have e2 := a2 (stackAddr (s.sp - 1 - 1)) (by simpa using (sp_ne_sub_two s.sp).symm)
  refine ⟨a0.congr e0, a1.congr e1, ⟨fun h => b1.1 (by simpa using h), fun h => (b1.2 (by simpa using h)).trans e2⟩, fun b hb => ?_⟩
  simp only [List.mem_cons, List.not_mem_nil, or_false, not_or] at hb
  rw [b2 b (by simpa using hb.2.2), a2 b (by simpa using ⟨hb.1, hb.2.1⟩)]

/-! ### Interrupt entry and return -/

/-- Two states with the same flags have the same status. -/
theorem status_eq_of_flags {t : State} (h : ∀ f, t.flag f = s.flag f) : t.status = s.status := eq_of_flags h

/-- The one flag an entry writes (R263, R404). -/
theorem flag_setStatus_statusWithI (u : State) (f : Flag) :
    (u.setStatus (statusWithI s.status)).flag f = if f = .i then true else s.flag f := by
  rw [State.flag_setStatus, getLsbD_statusWithI]
  by_cases hi : f = .i
  · simp [hi]
  · by_cases hu : f = .u
    · simp [hu]
    · simp [hi, hu, State.flag]

/-- Interrupt entry and BRK through a vector outside page 1 (R263, R404). -/
theorem entered_spec (status : Byte) (vector : Word) (hv : hiByte vector ≠ 0x01#8) (hv' : hiByte (vector + 1) ≠ 0x01#8)
    (hw : Memory.wf s.bus.mem = true) :
    (s.entered status vector).sp = s.sp - 3 ∧ (s.entered status vector).flag .i = true ∧
      (s.entered status vector).pc = mkWord (s.answer 4 (vector + 1)) (s.answer 3 vector) ∧
      Stored 0 (stackAddr s.sp) (hiByte s.pc) s (s.entered status vector) ∧
      Stored 1 (stackAddr (s.sp - 1)) (loByte s.pc) s (s.entered status vector) ∧
      Stored 2 (stackAddr (s.sp - 1 - 1)) status s (s.entered status vector) ∧
      SameMemoryBut [stackAddr s.sp, stackAddr (s.sp - 1), stackAddr (s.sp - 1 - 1)] s (s.entered status vector) ∧
      Frame [.sp] [.i] s (s.entered status vector) := by
  obtain ⟨h1, h2, h3, h4⟩ := stored_pushed_three (hiByte s.pc) (loByte s.pc) status hw
  have hb : ∀ b, (s.entered status vector).byteAt b = (((s.pushed (hiByte s.pc)).pushed (loByte s.pc)).pushed status).byteAt b := by
    intro b
    simp only [State.entered, State.setPc_byteAt, State.logAccess_byteAt, State.setStatus_byteAt, State.entryPushed]
  have w1 := State.pushed_wf s (hiByte s.pc) hw
  have w2 := State.pushed_wf _ (loByte s.pc) w1
  have ha : ∀ k b, hiByte b ≠ 0x01#8 → (s.entryPushed status).answer k b = s.answer (k + 3) b := by
    intro k b hne
    rw [State.entryPushed, State.pushed_answer_ne _ _ w2 (State.ne_stackAddr hne), State.pushed_answer_ne _ _ w1 (State.ne_stackAddr hne),
      State.pushed_answer_ne _ _ hw (State.ne_stackAddr hne)]
  refine ⟨?_, ?_, ?_, h1.congr (hb _), h2.congr (hb _), h3.congr (hb _), h4.congr hb, ?_⟩
  · simp only [State.entered, State.setPc_sp, State.logAccess_sp, State.setStatus_sp, State.entryPushed, State.pushed_sp]
    bv_omega
  · simp only [State.entered, State.setPc_flag, State.logAccess_flag, flag_setStatus_statusWithI, if_true]
  · simp only [State.entered, State.setPc_pc]
    rw [ha _ _ hv', ha _ _ hv]
  · refine ⟨fun r hr => ?_, fun f hf => ?_, ?_, ?_, ?_, ?_, ?_⟩
    · cases r <;> simp_all [State.reg, State.entered, State.entryPushed]
    · simp only [State.entered, State.setPc_flag, State.logAccess_flag, flag_setStatus_statusWithI]
      rw [if_neg (by simpa using hf)]
    all_goals simp [State.entered, State.entryPushed]

/-- The return (R264). -/
theorem returned_spec :
    s.returned.sp = s.sp + 3 ∧
      (∀ f, f ∉ [.b, .u] → s.returned.flag f = (s.answer 0 (stackAddr (s.sp + 1))).getLsbD f.bit) ∧ s.returned.flag .u = true ∧
      s.returned.pc = mkWord (s.answer 2 (stackAddr (s.sp + 1 + 1 + 1))) (s.answer 1 (stackAddr (s.sp + 1 + 1))) ∧
      Frame [.sp] [.n, .v, .d, .i, .z, .c] s s.returned ∧ SameMemoryBut [] s s.returned := by
  have hf : ∀ f, s.returned.flag f = ((pulledStatus s.pulledByte s.status).getLsbD f.bit || decide (f = .u)) := by
    intro f
    simp only [State.returned, State.setPc_flag, State.pulled_flag, State.flag_setStatus]
  refine ⟨?_, fun f h => ?_, State.flag_u _, ?_, ⟨fun r hr => ?_, fun f h => ?_, by simp [State.returned], by simp [State.returned],
    by simp [State.returned], by simp [State.returned], by simp [State.returned]⟩, fun b _ => ?_⟩
  · simp only [State.returned, State.setPc_sp, State.pulled_sp, State.setStatus_sp]
    bv_omega
  · simp only [List.mem_cons, List.not_mem_nil, or_false, not_or] at h
    rw [hf, getLsbD_pulledStatus, if_neg h.2, if_neg h.1, decide_eq_false h.2, Bool.or_false]
    rfl
  · simp [State.returned, State.pulledByte]
  · cases r <;> simp_all [State.reg, State.returned]
  · rw [hf, getLsbD_pulledStatus]
    cases f with
    | b => simp [State.flag]
    | u => simp
    | c | z | i | d | v | n => simp at h
  · simp only [State.returned, State.setPc_byteAt, State.pulled_byteAt, State.setStatus_byteAt]

end Sys2Proof.Machine
end

