-- ==== Sys2Proof/Laws/Step.lean ====
section
/-! SUPPORT. Everything an instruction, an interrupt entry and a step can answer, said once. -/

namespace Sys2Proof

/-- Three bytes always hold an instruction (R100). -/
theorem decode_three (a b c : Byte) : ∃ i rest, decode [a, b, c] = .ok (i, rest) := by
  cases hl : lookup a with
  | none => exact ⟨.illegal a, [b, c], by simp only [decode, hl]⟩
  | some d => cases hs : d.mode.operandSize <;> exact ⟨_, _, by simp only [decode, hl, hs]; rfl⟩

namespace Machine

/-! ### An instruction -/

/-- All that `exec` can answer. -/
theorem exec_cases (i : Instr) (s : State) :
    (∃ op, i = .illegal op ∧ exec i s = .fault (.illegalOpcode op (s.pc - 1) (s.haltIllegal op (s.pc - 1)))) ∨
    (i.mnemonic ≠ none ∧ s.busAccepts (ruleAccesses i s).length = true ∧ Accessed (ruleAccesses i s) s (finalState i s) ∧
      Advances s (finalState i s) ∧ ∃ n, ruleCycles i s = some n ∧ exec i s = .next ((finalState i s).setLastCycles (some n))) ∨
    ∃ k access info u, (ruleAccesses i s)[k]? = some access ∧ s.busRejects k info ∧
      Cut ((ruleAccesses i s).take (k + 1)) access info s u ∧
      exec i s = .fault (.busFault access.2 access.1 info (u.haltUnspecified (.busFault access.2 access.1 info))) := by
  by_cases hm : i.mnemonic = none
  · left
    cases i with
    | illegal op => exact ⟨op, rfl, rfl⟩
    | _ => simp [Instr.mnemonic] at hm
  · right
    obtain ⟨n, r, h1, h2, h3⟩ := exec_runs i s hm
    rcases accepts_or_rejects s (ruleAccesses i s).length with ha | ⟨k, info, hk, hr⟩
    · exact .inl ⟨hm, ha, h2.accessed, h2.advances, n, h3, by rw [h1, h2.finish_ok ha]⟩
    · obtain ⟨u, h4, h5⟩ := h2.rejected k _ info (List.getElem?_eq_getElem hk) hr
      exact .inr ⟨k, _, info, u, List.getElem?_eq_getElem hk, hr, h5, by rw [h1, h4, Res.finish_busFault]⟩

/-! ### Interrupt entry -/

/-- The NMI latch during an entry: taking an NMI clears it (R403). -/
def InterruptKind.latch (kind : InterruptKind) (s : State) : Bool :=
  match kind with
  | .nmi => false
  | .irq => s.nmiPending

theorem setNmiPending_self (s : State) : s.setNmiPending s.nmiPending = s := rfl

/-- The entry in one form for both interrupts. -/
theorem interruptEntry_eq (kind : InterruptKind) (s : State) :
    interruptEntry kind s =
      ((takeException (hardwareStatus s.status) kind.vector (s.setNmiPending (kind.latch s))).bind fun _ s1 => .ok 7 s1).finish := by
  cases kind with
  | nmi => rfl
  | irq => rw [show InterruptKind.irq.latch s = s.nmiPending from rfl, setNmiPending_self]; rfl

/-- The accesses of an entry (R404). -/
def entryAccesses (kind : InterruptKind) (s : State) : List Access :=
  pushAccesses 3 s ++ [(.read, kind.vector), (.read, kind.vector + 1)]

theorem Script.entry (kind : InterruptKind) (s : State) :
    Script ((Machine.takeException (hardwareStatus s.status) kind.vector (s.setNmiPending (kind.latch s))).bind fun _ s1 => .ok 7 s1)
      (s.setNmiPending (kind.latch s)) (entryAccesses kind s) 7
      ((s.setNmiPending (kind.latch s)).entered (hardwareStatus s.status) kind.vector) :=
  Script.bind_pure (Script.takeException _ _ _) rfl rfl (.refl _)

/-- All that an interrupt entry can answer. -/
theorem interruptEntry_cases (kind : InterruptKind) (s : State) :
    (s.busAccepts (entryAccesses kind s).length = true ∧
      interruptEntry kind s =
        .next (((s.setNmiPending (kind.latch s)).entered (hardwareStatus s.status) kind.vector).setLastCycles (some 7))) ∨
    ∃ k access info u, (entryAccesses kind s)[k]? = some access ∧ s.busRejects k info ∧
      Cut ((entryAccesses kind s).take (k + 1)) access info (s.setNmiPending (kind.latch s)) u ∧
      interruptEntry kind s = .fault (.busFault access.2 access.1 info (u.haltUnspecified (.busFault access.2 access.1 info))) := by
  rw [interruptEntry_eq]
  have h2 := Script.entry kind s
  rcases accepts_or_rejects s (entryAccesses kind s).length with ha | ⟨k, info, hk, hr⟩
  · exact .inl ⟨ha, h2.finish_ok ha⟩
  · obtain ⟨u, h4, h5⟩ := h2.rejected k _ info (List.getElem?_eq_getElem hk) hr
    exact .inr ⟨k, _, info, u, List.getElem?_eq_getElem hk, hr, h5, by rw [h4, Res.finish_busFault]⟩

/-! ### No step writes an address twice -/

/-- No write among the accesses is made again by a later one. -/
abbrev WritesOnce (accesses : List Access) : Prop := accesses.Pairwise fun x y => x.1 = .write → x ≠ y

/-- Reads before the accesses do not matter. -/
theorem WritesOnce.after_reads {as bs : List Access} (ha : ∀ x ∈ as, x.1 = .read) (hb : WritesOnce bs) : WritesOnce (as ++ bs) := by
  induction as with
  | nil => exact hb
  | cons a as ih =>
    have h := ha a (List.mem_cons_self ..)
    exact .cons (fun y _ hw => by rw [h] at hw; cases hw) (ih fun x hx => ha x (List.mem_cons_of_mem _ hx))

/-- Accesses that are all reads write nothing twice. -/
theorem WritesOnce.reads {as : List Access} (ha : ∀ x ∈ as, x.1 = .read) : WritesOnce as := by
  simpa using WritesOnce.after_reads ha .nil

theorem pointerAccesses_reads (m : MemMode) (s : State) : ∀ x ∈ pointerAccesses m s, x.1 = .read := by
  cases m <;> simp [pointerAccesses]

theorem fetchAccesses_reads : ∀ (n : Nat) (pc : Word), ∀ x ∈ fetchAccesses n pc, x.1 = .read
  | 0, _ => by simp [fetchAccesses]
  | n + 1, pc => by simpa [fetchAccesses] using fun a b h => fetchAccesses_reads n (pc + 1) (a, b) h

theorem memoryAccesses_writesOnce {kinds : List AccessKind} {i : Instr} {s : State}
    (h : ∀ ea : Word, WritesOnce (kinds.map fun k => (k, ea))) : WritesOnce (memoryAccesses kinds i s) := by
  unfold memoryAccesses
  split
  · exact .after_reads (pointerAccesses_reads _ s) (h _)
  · exact .nil

/-- Up to three pushes go to different locations of page 1, whatever SP is. -/
theorem pushAccesses_writesOnce {n : Nat} (hn : n ≤ 3) (s : State) : WritesOnce (pushAccesses n s) := by
  unfold pushAccesses
  refine List.pairwise_map.mpr (List.Pairwise.imp_of_mem ?_ List.pairwise_lt_range)
  intro j k hj hk hjk _ he
  have hk := List.mem_range.mp hk
  have h := congrArg BitVec.toNat (Prod.mk.inj he).2
  simp only [stackLocation, word, BitVec.toNat_ofNat] at h
  have := s.sp.isLt
  omega

theorem entryPushes_writesOnce (s : State) (a b : Word) : WritesOnce (pushAccesses 3 s ++ [(.read, a), (.read, b)]) := by
  refine List.pairwise_append.mpr ⟨pushAccesses_writesOnce (Nat.le_refl 3) s, WritesOnce.reads (by simp), fun x hx y hy hw he => ?_⟩
  rw [he] at hw
  rcases (by simpa using hy : y = (.read, a) ∨ y = (.read, b)) with rfl | rfl <;> cases hw

/-- The accesses of an instruction (R113). -/
theorem ruleAccesses_writesOnce (i : Instr) (s : State) : WritesOnce (ruleAccesses i s) := by
  unfold ruleAccesses
  split
  all_goals first
    | exact memoryAccesses_writesOnce fun ea => by simp
    | exact pushAccesses_writesOnce (by decide) s
    | exact entryPushes_writesOnce s _ _
    | (split <;> exact WritesOnce.reads (by simp))
    | exact WritesOnce.reads (by simp [pullAccesses])

/-- The entries of accesses that write nothing twice have at most one write for each address. -/
theorem WritesOnce.entry_unique {accesses : List Access} {es : List BusEvent} {j k : Nat} {b : Word} {v w : Byte}
    (h : WritesOnce accesses) (he : es.reverse.map BusEvent.access = accesses.map some) (hjk : k < j)
    (hk : es.reverse[k]? = some (.write b v)) : es.reverse[j]? ≠ some (.write b w) := by
  intro hj
  have get {n : Nat} {x : Byte} (hn : es.reverse[n]? = some (.write b x)) : accesses[n]? = some (.write, b) := by
    have := congrArg (fun l => l[n]?) he
    simp only [List.getElem?_map, hn, Option.map_some, BusEvent.access] at this
    cases h : accesses[n]? with
    | none => simp [h] at this
    | some x => simpa [h, eq_comm] using this
  obtain ⟨hk', gk⟩ := List.getElem?_eq_some_iff.mp (get hk)
  obtain ⟨hj', gj⟩ := List.getElem?_eq_some_iff.mp (get hj)
  exact List.pairwise_iff_getElem.mp h k j hk' hj' hjk (by rw [gk]) (by rw [gk, gj])

/-! ### A step -/

theorem fetchAccesses_length : ∀ (n : Nat) (pc : Word), (fetchAccesses n pc).length = n
  | 0, _ => rfl
  | n + 1, pc => by rw [fetchAccesses, List.length_cons, fetchAccesses_length]

theorem fetchLength_pos (i : Instr) : 0 < i.fetchLength := by cases i <;> exact Nat.succ_pos _

theorem advances_fetched : ∀ (n : Nat) (s : State), Advances s (s.fetched n)
  | 0, s => .refl s
  | n + 1, s => ((Advances.read _ _ s).trans (.setPc _ _)).trans (advances_fetched n _)

theorem accessed_fetched : ∀ (n : Nat) (s : State), Accessed (fetchAccesses n s.pc) s (s.fetched n)
  | 0, s => .refl s
  | n + 1, s =>
    .trans (as := [(.read, s.pc)]) (t := (s.afterRead s.pc).setPc (s.pc + 1)) ⟨[.read s.pc (s.answer 0 s.pc)], by simp [BusEvent.access]⟩
      (accessed_fetched n _)

/-- The boundary of a running core with no interrupt to take (R405). -/
theorem boundary_instruction {s : State} (hr : s.runState = .running) (hn : s.nmiPending = false)
    (hi : s.irqLine = false ∨ s.flag .i = true) : boundary s = .instruction := by
  rcases hi with h | h <;> simp [boundary, hr, hn, h]

/-- All that a step can do at an instruction: run what the bytes at PC decode to, or end at a rejected read of one of them. -/
theorem step_instruction {s : State} (hb : boundary s = .instruction) :
    ∃ i rest, decode [s.answer 0 s.pc, s.answer 1 (s.pc + 1), s.answer 2 (s.pc + 2)] = .ok (i, rest) ∧
      ((s.busAccepts i.fetchLength = true ∧ step s = exec i ((s.beginOp .step).fetched i.fetchLength)) ∨
        ∃ k access info u, (fetchAccesses i.fetchLength s.pc)[k]? = some access ∧ s.busRejects k info ∧
          Cut ((fetchAccesses i.fetchLength s.pc).take (k + 1)) access info (s.beginOp .step) u ∧
          step s = .fault (.busFault access.2 access.1 info (u.haltUnspecified (.busFault access.2 access.1 info)))) := by
  obtain ⟨i, rest, hd⟩ := decode_three (s.answer 0 s.pc) (s.answer 1 (s.pc + 1)) (s.answer 2 (s.pc + 2))
  refine ⟨i, rest, hd, ?_⟩
  have sc := Script.fetchInstr (s := s.beginOp .step) hd
  have hl := fetchAccesses_length i.fetchLength s.pc
  unfold step
  rw [hb]
  rcases accepts_or_rejects s i.fetchLength with ha | ⟨k, info, hk, hr⟩
  · have hok := sc.ok (by rw [State.beginOp_pc, hl]; exact ha)
    exact .inl ⟨ha, by simp only [hok]⟩
  · have hk' : k < (fetchAccesses i.fetchLength s.pc).length := by rwa [hl]
    obtain ⟨u, h1, h2⟩ := sc.rejected k _ info (List.getElem?_eq_getElem hk') hr
    exact .inr ⟨k, _, info, u, List.getElem?_eq_getElem hk', hr, h2, by simp only [h1, Res.finish_busFault]⟩

/-- What every completed step does: the core was running, the NMI latch stays or is cleared, and the rest advances. -/
theorem step_next {s t : State} (h : step s = .next t) :
    s.runState = .running ∧ ∃ latch, (latch = s.nmiPending ∨ latch = false) ∧ Advances ((s.beginOp .step).setNmiPending latch) t := by
  cases hb : boundary s with
  | fault f => simp [step, hb] at h
  | interrupt kind =>
    have hr : s.runState = .running := by
      unfold boundary at hb
      split at hb <;> first | assumption | cases hb
    refine ⟨hr, kind.latch (s.beginOp .step), by cases kind <;> simp [InterruptKind.latch], ?_⟩
    have hs : step s = interruptEntry kind (s.beginOp .step) := by simp only [step, hb]
    rcases interruptEntry_cases kind (s.beginOp .step) with ⟨-, h1⟩ | ⟨_, _, _, _, _, _, _, h1⟩
    · rw [hs, h1] at h
      rw [← Host.Outcome.next.inj h]
      exact (Script.entry kind _).advances.trans (.setLastCycles _ _)
    · rw [hs, h1] at h
      cases h
  | instruction =>
    have hr : s.runState = .running := by
      unfold boundary at hb
      split at hb <;> first | assumption | cases hb
    refine ⟨hr, s.nmiPending, .inl rfl, ?_⟩
    obtain ⟨i, rest, -, ⟨-, h1⟩ | ⟨_, _, _, _, _, _, _, h1⟩⟩ := step_instruction hb
    · rcases exec_cases i ((s.beginOp .step).fetched i.fetchLength) with ⟨_, _, h2⟩ | ⟨_, _, _, hadv, n, _, h2⟩ | ⟨_, _, _, _, _, _, _, h2⟩
      · rw [h1, h2] at h
        cases h
      · rw [h1, h2] at h
        rw [← Host.Outcome.next.inj h]
        exact ((advances_fetched _ (s.beginOp .step)).trans hadv).trans (.setLastCycles _ _)
      · rw [h1, h2] at h
        cases h
    · rw [h1] at h
      cases h

/-- What every step that ends with a bus fault does: it stops at the access the bus rejected, after advancing so far. -/
theorem step_busFault {s t : State} {addr : Word} {kind : AccessKind} {info : BusInfo} (hr : s.runState = .running)
    (h : step s = .fault (.busFault addr kind info t)) :
    ∃ latch u, (latch = s.nmiPending ∨ latch = false) ∧ t = u.haltUnspecified (.busFault addr kind info) ∧
      Advances ((s.beginOp .step).setNmiPending latch) u ∧ (∃ e rest, u.bus.history = e :: rest ∧ e.Rejects (kind, addr) info) ∧
      ∃ accesses, WritesOnce accesses ∧ Accessed accesses ((s.beginOp .step).setNmiPending latch) u := by
  cases hb : boundary s with
  | fault f =>
    unfold boundary at hb
    rw [hr] at hb
    simp only at hb
    split_ifs at hb
  | interrupt int =>
    have hs : step s = interruptEntry int (s.beginOp .step) := by simp only [step, hb]
    rcases interruptEntry_cases int (s.beginOp .step) with ⟨-, h1⟩ | ⟨_, access, _, u, _, _, hc, h1⟩
    · rw [hs, h1] at h
      cases h
    · rw [hs, h1] at h
      obtain ⟨h2, h3, h4, h5⟩ := Fault.busFault.inj (Host.Outcome.fault.inj h)
      subst h2 h3 h4
      exact ⟨int.latch (s.beginOp .step), u, by cases int <;> simp [InterruptKind.latch], h5.symm, hc.advances, hc.last, _,
        (entryPushes_writesOnce _ _ _).sublist (List.take_sublist _ _), hc.accessed⟩
  | instruction =>
    obtain ⟨i, rest, -, ⟨-, h1⟩ | ⟨_, access, _, u, _, _, hc, h1⟩⟩ := step_instruction hb
    · rcases exec_cases i ((s.beginOp .step).fetched i.fetchLength) with ⟨_, _, h2⟩ | ⟨_, _, _, _, _, _, h2⟩ | ⟨_, access, _, u, _, _, hc, h2⟩
      · rw [h1, h2] at h
        cases h
      · rw [h1, h2] at h
        cases h
      · rw [h1, h2] at h
        obtain ⟨h2, h3, h4, h5⟩ := Fault.busFault.inj (Host.Outcome.fault.inj h)
        subst h2 h3 h4
        exact ⟨s.nmiPending, u, .inl rfl, h5.symm, (advances_fetched _ (s.beginOp .step)).trans hc.advances, hc.last, _,
          .after_reads (fetchAccesses_reads i.fetchLength s.pc) ((ruleAccesses_writesOnce i _).sublist (List.take_sublist _ _)),
          (accessed_fetched _ (s.beginOp .step)).trans hc.accessed⟩
    · rw [h1] at h
      obtain ⟨h2, h3, h4, h5⟩ := Fault.busFault.inj (Host.Outcome.fault.inj h)
      subst h2 h3 h4
      exact ⟨s.nmiPending, u, .inl rfl, h5.symm, hc.advances, hc.last, _,
        .reads fun x hx => fetchAccesses_reads _ _ x (List.mem_of_mem_take hx), hc.accessed⟩

/-- What every step that meets an illegal opcode in a running core does (R408). -/
theorem step_illegalOpcode {s t : State} {op : Byte} {addr : Word} (hr : s.runState = .running)
    (h : step s = .fault (.illegalOpcode op addr t)) :
    ∃ u, Advances (s.beginOp .step) u ∧ t = u.haltIllegal op addr := by
  cases hb : boundary s with
  | fault f =>
    unfold boundary at hb
    rw [hr] at hb
    simp only at hb
    split_ifs at hb
  | interrupt int =>
    have hs : step s = interruptEntry int (s.beginOp .step) := by simp only [step, hb]
    rcases interruptEntry_cases int (s.beginOp .step) with ⟨-, h1⟩ | ⟨_, _, _, _, _, _, _, h1⟩ <;>
      · rw [hs, h1] at h
        cases h
  | instruction =>
    obtain ⟨i, rest, -, ⟨-, h1⟩ | ⟨_, _, _, _, _, _, _, h1⟩⟩ := step_instruction hb
    · rcases exec_cases i ((s.beginOp .step).fetched i.fetchLength) with ⟨_, _, h2⟩ | ⟨_, _, _, _, _, _, h2⟩ | ⟨_, _, _, _, _, _, _, h2⟩
      · rw [h1, h2] at h
        obtain ⟨h3, h4, h5⟩ := Fault.illegalOpcode.inj (Host.Outcome.fault.inj h)
        subst h3 h4
        exact ⟨_, advances_fetched _ _, h5.symm⟩
      · rw [h1, h2] at h
        cases h
      · rw [h1, h2] at h
        cases h
    · rw [h1] at h
      cases h

end Machine

end Sys2Proof
end

