-- ==== Sys2Proof/Laws/Inert.lean ====
section
/-! SUPPORT. The last count and `STORE_PAGE_PENALTY` are inert: no effect of an instruction or an interrupt entry depends on them. -/

namespace Sys2Proof.Machine

/-- `s` with another last count and another `STORE_PAGE_PENALTY`. -/
def State.withInert (n : Option Nat) (p : StorePagePenalty) (s : State) : State :=
  { s with lastCycles := n, params := { s.params with storePagePenalty := p } }

variable (n : Option Nat) (p : StorePagePenalty)

theorem flag_withInert (f : Flag) (s : State) : (s.withInert n p).flag f = s.flag f := rfl

theorem written_withInert (addr : Word) (v : Byte) (s : State) :
    (s.withInert n p).written addr v = (s.written addr v).withInert n p := by
  unfold State.written
  rw [show (s.withInert n p).storesAt 0 = s.storesAt 0 from rfl]
  split <;> rfl

theorem pushed_withInert (v : Byte) (s : State) : (s.withInert n p).pushed v = (s.pushed v).withInert n p := by
  unfold State.pushed
  rw [show (s.withInert n p).sp = s.sp from rfl, written_withInert]
  rfl

theorem afterPointer_withInert (m : MemMode) (s : State) : (s.withInert n p).afterPointer m = (s.afterPointer m).withInert n p := by
  cases m <;> rfl

theorem effectiveAddress_withInert (m : MemMode) (s : State) : effectiveAddress m (s.withInert n p) = effectiveAddress m s := by
  cases m <;> rfl

theorem operandByte_withInert (i : Instr) (s : State) : operandByte i (s.withInert n p) = operandByte i s := by
  unfold operandByte
  split
  · rfl
  · rw [effectiveAddress_withInert]; rfl
  all_goals rfl

theorem afterOperand_withInert (i : Instr) (s : State) : (s.withInert n p).afterOperand i = (s.afterOperand i).withInert n p := by
  unfold State.afterOperand
  split
  · rename_i src _
    cases src with
    | imm nn => rfl
    | mem m => simp only [State.afterSource, effectiveAddress_withInert, afterPointer_withInert]; rfl
  all_goals rfl

theorem storedTo_withInert (i : Instr) (v : Byte) (s : State) : (s.withInert n p).storedTo i v = (s.storedTo i v).withInert n p := by
  unfold State.storedTo
  split
  · rw [effectiveAddress_withInert, afterPointer_withInert, written_withInert]
  · rfl

theorem modified_withInert (i : Instr) (v : Byte) (s : State) : (s.withInert n p).modified i v = (s.modified i v).withInert n p := by
  unfold State.modified
  split
  · rw [effectiveAddress_withInert, afterPointer_withInert, ← written_withInert]; rfl
  · rfl

theorem setDecimalResult_withInert (m : Byte) (r : AluResult) (s : State) :
    (s.withInert n p).setDecimalResult m r = (s.setDecimalResult m r).withInert n p := by
  unfold State.setDecimalResult
  rw [show (s.withInert n p).params.decimalModel = s.params.decimalModel from rfl]
  split <;> rfl

theorem adcEffect_withInert (m : Byte) (s : State) : adcEffect m (s.withInert n p) = (adcEffect m s).withInert n p := by
  unfold adcEffect
  rw [setDecimalResult_withInert, flag_withInert, flag_withInert]
  split <;> rfl

theorem sbcEffect_withInert (m : Byte) (s : State) : sbcEffect m (s.withInert n p) = (sbcEffect m s).withInert n p := by
  unfold sbcEffect
  rw [setDecimalResult_withInert, flag_withInert, flag_withInert]
  split <;> rfl

theorem branched_withInert (i : Instr) (s : State) : (s.withInert n p).branched i = (s.branched i).withInert n p := by
  unfold State.branched
  split
  · rw [show branchTaken i (s.withInert n p) = branchTaken i s by unfold branchTaken; split <;> rfl]
    split <;> rfl
  all_goals rfl

theorem jumped_withInert (i : Instr) (s : State) : (s.withInert n p).jumped i = (s.jumped i).withInert n p := by
  unfold State.jumped
  split <;> rfl

theorem called_withInert (i : Instr) (s : State) : (s.withInert n p).called i = (s.called i).withInert n p := by
  unfold State.called
  split
  · rw [pushed_withInert, pushed_withInert]; rfl
  · rfl

theorem entered_withInert (status : Byte) (vector : Word) (s : State) :
    (s.withInert n p).entered status vector = (s.entered status vector).withInert n p := by
  have h : (s.withInert n p).entryPushed status = (s.entryPushed status).withInert n p := by
    unfold State.entryPushed
    rw [show (s.withInert n p).pc = s.pc from rfl, pushed_withInert, pushed_withInert, pushed_withInert]
  unfold State.entered
  rw [h]
  rfl

/-- No instruction's effect depends on the inert fields (R459). -/
theorem finalState_withInert (i : Instr) (s : State) : finalState i (s.withInert n p) = (finalState i s).withInert n p := by
  unfold finalState
  simp only [operandByte_withInert, afterOperand_withInert, modified_withInert, branched_withInert, jumped_withInert, called_withInert,
    flag_withInert]
  cases i.mnemonic with
  | none => rfl
  | some m =>
    cases m
    case adc => exact adcEffect_withInert n p _ _
    case sbc => exact sbcEffect_withInert n p _ _
    case sta | stx | sty => exact storedTo_withInert n p _ _ _
    case asl | lsr | rol | ror | inc | dec =>
      simp only
      generalize s.modified i _ = u
      rfl
    case pha | php => exact pushed_withInert n p _ _
    case brk => exact entered_withInert n p _ _ (s.setPc (s.pc + 1))
    all_goals rfl

end Sys2Proof.Machine
end

