-- ==== Sys2Proof/Laws/PerInstr.lean ====
section
/-! SUPPORT. A statement of every instruction as syntax, proved one constructor at a time. -/

namespace Sys2Proof.Laws.EncodedLength

/-- The encoding of a well-formed instruction has the length its mode gives: one byte for ACC and IMP, two for IMM, the zero-page modes and
REL, three for ABS, ABX, ABY and IND, and two for BRK (R118). -/
def Statement (i : Instr) : Prop :=
  i.wf = true → (encode i).length =
    match i.operand.mode with
    | .acc => 1
    | .imp => if i.mnemonic = some .brk then 2 else 1
    | .imm | .zp | .zpx | .zpy | .izx | .izy | .rel => 2
    | .abs | .abx | .aby | .ind => 3

theorem adcImm (nn : Byte) : Statement (.adcImm nn) := fun _ => rfl
theorem adcZp (zz : Byte) : Statement (.adcZp zz) := fun _ => rfl
theorem adcZpx (zz : Byte) : Statement (.adcZpx zz) := fun _ => rfl
theorem adcAbs (addr : Word) : Statement (.adcAbs addr) := fun _ => rfl
theorem adcAbx (addr : Word) : Statement (.adcAbx addr) := fun _ => rfl
theorem adcAby (addr : Word) : Statement (.adcAby addr) := fun _ => rfl
theorem adcIzx (zz : Byte) : Statement (.adcIzx zz) := fun _ => rfl
theorem adcIzy (zz : Byte) : Statement (.adcIzy zz) := fun _ => rfl
theorem sbcImm (nn : Byte) : Statement (.sbcImm nn) := fun _ => rfl
theorem sbcZp (zz : Byte) : Statement (.sbcZp zz) := fun _ => rfl
theorem sbcZpx (zz : Byte) : Statement (.sbcZpx zz) := fun _ => rfl
theorem sbcAbs (addr : Word) : Statement (.sbcAbs addr) := fun _ => rfl
theorem sbcAbx (addr : Word) : Statement (.sbcAbx addr) := fun _ => rfl
theorem sbcAby (addr : Word) : Statement (.sbcAby addr) := fun _ => rfl
theorem sbcIzx (zz : Byte) : Statement (.sbcIzx zz) := fun _ => rfl
theorem sbcIzy (zz : Byte) : Statement (.sbcIzy zz) := fun _ => rfl
theorem andImm (nn : Byte) : Statement (.andImm nn) := fun _ => rfl
theorem andZp (zz : Byte) : Statement (.andZp zz) := fun _ => rfl
theorem andZpx (zz : Byte) : Statement (.andZpx zz) := fun _ => rfl
theorem andAbs (addr : Word) : Statement (.andAbs addr) := fun _ => rfl
theorem andAbx (addr : Word) : Statement (.andAbx addr) := fun _ => rfl
theorem andAby (addr : Word) : Statement (.andAby addr) := fun _ => rfl
theorem andIzx (zz : Byte) : Statement (.andIzx zz) := fun _ => rfl
theorem andIzy (zz : Byte) : Statement (.andIzy zz) := fun _ => rfl
theorem oraImm (nn : Byte) : Statement (.oraImm nn) := fun _ => rfl
theorem oraZp (zz : Byte) : Statement (.oraZp zz) := fun _ => rfl
theorem oraZpx (zz : Byte) : Statement (.oraZpx zz) := fun _ => rfl
theorem oraAbs (addr : Word) : Statement (.oraAbs addr) := fun _ => rfl
theorem oraAbx (addr : Word) : Statement (.oraAbx addr) := fun _ => rfl
theorem oraAby (addr : Word) : Statement (.oraAby addr) := fun _ => rfl
theorem oraIzx (zz : Byte) : Statement (.oraIzx zz) := fun _ => rfl
theorem oraIzy (zz : Byte) : Statement (.oraIzy zz) := fun _ => rfl
theorem eorImm (nn : Byte) : Statement (.eorImm nn) := fun _ => rfl
theorem eorZp (zz : Byte) : Statement (.eorZp zz) := fun _ => rfl
theorem eorZpx (zz : Byte) : Statement (.eorZpx zz) := fun _ => rfl
theorem eorAbs (addr : Word) : Statement (.eorAbs addr) := fun _ => rfl
theorem eorAbx (addr : Word) : Statement (.eorAbx addr) := fun _ => rfl
theorem eorAby (addr : Word) : Statement (.eorAby addr) := fun _ => rfl
theorem eorIzx (zz : Byte) : Statement (.eorIzx zz) := fun _ => rfl
theorem eorIzy (zz : Byte) : Statement (.eorIzy zz) := fun _ => rfl
theorem bitZp (zz : Byte) : Statement (.bitZp zz) := fun _ => rfl
theorem bitAbs (addr : Word) : Statement (.bitAbs addr) := fun _ => rfl
theorem aslAcc : Statement (.aslAcc) := fun _ => rfl
theorem aslZp (zz : Byte) : Statement (.aslZp zz) := fun _ => rfl
theorem aslZpx (zz : Byte) : Statement (.aslZpx zz) := fun _ => rfl
theorem aslAbs (addr : Word) : Statement (.aslAbs addr) := fun _ => rfl
theorem aslAbx (addr : Word) : Statement (.aslAbx addr) := fun _ => rfl
theorem lsrAcc : Statement (.lsrAcc) := fun _ => rfl
theorem lsrZp (zz : Byte) : Statement (.lsrZp zz) := fun _ => rfl
theorem lsrZpx (zz : Byte) : Statement (.lsrZpx zz) := fun _ => rfl
theorem lsrAbs (addr : Word) : Statement (.lsrAbs addr) := fun _ => rfl
theorem lsrAbx (addr : Word) : Statement (.lsrAbx addr) := fun _ => rfl
theorem rolAcc : Statement (.rolAcc) := fun _ => rfl
theorem rolZp (zz : Byte) : Statement (.rolZp zz) := fun _ => rfl
theorem rolZpx (zz : Byte) : Statement (.rolZpx zz) := fun _ => rfl
theorem rolAbs (addr : Word) : Statement (.rolAbs addr) := fun _ => rfl
theorem rolAbx (addr : Word) : Statement (.rolAbx addr) := fun _ => rfl
theorem rorAcc : Statement (.rorAcc) := fun _ => rfl
theorem rorZp (zz : Byte) : Statement (.rorZp zz) := fun _ => rfl
theorem rorZpx (zz : Byte) : Statement (.rorZpx zz) := fun _ => rfl
theorem rorAbs (addr : Word) : Statement (.rorAbs addr) := fun _ => rfl
theorem rorAbx (addr : Word) : Statement (.rorAbx addr) := fun _ => rfl
theorem cmpImm (nn : Byte) : Statement (.cmpImm nn) := fun _ => rfl
theorem cmpZp (zz : Byte) : Statement (.cmpZp zz) := fun _ => rfl
theorem cmpZpx (zz : Byte) : Statement (.cmpZpx zz) := fun _ => rfl
theorem cmpAbs (addr : Word) : Statement (.cmpAbs addr) := fun _ => rfl
theorem cmpAbx (addr : Word) : Statement (.cmpAbx addr) := fun _ => rfl
theorem cmpAby (addr : Word) : Statement (.cmpAby addr) := fun _ => rfl
theorem cmpIzx (zz : Byte) : Statement (.cmpIzx zz) := fun _ => rfl
theorem cmpIzy (zz : Byte) : Statement (.cmpIzy zz) := fun _ => rfl
theorem cpxImm (nn : Byte) : Statement (.cpxImm nn) := fun _ => rfl
theorem cpxZp (zz : Byte) : Statement (.cpxZp zz) := fun _ => rfl
theorem cpxAbs (addr : Word) : Statement (.cpxAbs addr) := fun _ => rfl
theorem cpyImm (nn : Byte) : Statement (.cpyImm nn) := fun _ => rfl
theorem cpyZp (zz : Byte) : Statement (.cpyZp zz) := fun _ => rfl
theorem cpyAbs (addr : Word) : Statement (.cpyAbs addr) := fun _ => rfl
theorem bcc (oo : Byte) : Statement (.bcc oo) := fun _ => rfl
theorem bcs (oo : Byte) : Statement (.bcs oo) := fun _ => rfl
theorem beq (oo : Byte) : Statement (.beq oo) := fun _ => rfl
theorem bne (oo : Byte) : Statement (.bne oo) := fun _ => rfl
theorem bmi (oo : Byte) : Statement (.bmi oo) := fun _ => rfl
theorem bpl (oo : Byte) : Statement (.bpl oo) := fun _ => rfl
theorem bvc (oo : Byte) : Statement (.bvc oo) := fun _ => rfl
theorem bvs (oo : Byte) : Statement (.bvs oo) := fun _ => rfl
theorem pha : Statement (.pha) := fun _ => rfl
theorem php : Statement (.php) := fun _ => rfl
theorem pla : Statement (.pla) := fun _ => rfl
theorem plp : Statement (.plp) := fun _ => rfl
theorem jmpAbs (addr : Word) : Statement (.jmpAbs addr) := fun _ => rfl
theorem jmpInd (ptr : Word) : Statement (.jmpInd ptr) := fun _ => rfl
theorem jsr (addr : Word) : Statement (.jsr addr) := fun _ => rfl
theorem rts : Statement (.rts) := fun _ => rfl
theorem brk : Statement (.brk) := fun _ => rfl
theorem rti : Statement (.rti) := fun _ => rfl
theorem tax : Statement (.tax) := fun _ => rfl
theorem tay : Statement (.tay) := fun _ => rfl
theorem txa : Statement (.txa) := fun _ => rfl
theorem tya : Statement (.tya) := fun _ => rfl
theorem tsx : Statement (.tsx) := fun _ => rfl
theorem txs : Statement (.txs) := fun _ => rfl
theorem inx : Statement (.inx) := fun _ => rfl
theorem iny : Statement (.iny) := fun _ => rfl
theorem dex : Statement (.dex) := fun _ => rfl
theorem dey : Statement (.dey) := fun _ => rfl
theorem incZp (zz : Byte) : Statement (.incZp zz) := fun _ => rfl
theorem incZpx (zz : Byte) : Statement (.incZpx zz) := fun _ => rfl
theorem incAbs (addr : Word) : Statement (.incAbs addr) := fun _ => rfl
theorem incAbx (addr : Word) : Statement (.incAbx addr) := fun _ => rfl
theorem decZp (zz : Byte) : Statement (.decZp zz) := fun _ => rfl
theorem decZpx (zz : Byte) : Statement (.decZpx zz) := fun _ => rfl
theorem decAbs (addr : Word) : Statement (.decAbs addr) := fun _ => rfl
theorem decAbx (addr : Word) : Statement (.decAbx addr) := fun _ => rfl
theorem ldaImm (nn : Byte) : Statement (.ldaImm nn) := fun _ => rfl
theorem ldaZp (zz : Byte) : Statement (.ldaZp zz) := fun _ => rfl
theorem ldaZpx (zz : Byte) : Statement (.ldaZpx zz) := fun _ => rfl
theorem ldaAbs (addr : Word) : Statement (.ldaAbs addr) := fun _ => rfl
theorem ldaAbx (addr : Word) : Statement (.ldaAbx addr) := fun _ => rfl
theorem ldaAby (addr : Word) : Statement (.ldaAby addr) := fun _ => rfl
theorem ldaIzx (zz : Byte) : Statement (.ldaIzx zz) := fun _ => rfl
theorem ldaIzy (zz : Byte) : Statement (.ldaIzy zz) := fun _ => rfl
theorem ldxImm (nn : Byte) : Statement (.ldxImm nn) := fun _ => rfl
theorem ldxZp (zz : Byte) : Statement (.ldxZp zz) := fun _ => rfl
theorem ldxZpy (zz : Byte) : Statement (.ldxZpy zz) := fun _ => rfl
theorem ldxAbs (addr : Word) : Statement (.ldxAbs addr) := fun _ => rfl
theorem ldxAby (addr : Word) : Statement (.ldxAby addr) := fun _ => rfl
theorem ldyImm (nn : Byte) : Statement (.ldyImm nn) := fun _ => rfl
theorem ldyZp (zz : Byte) : Statement (.ldyZp zz) := fun _ => rfl
theorem ldyZpx (zz : Byte) : Statement (.ldyZpx zz) := fun _ => rfl
theorem ldyAbs (addr : Word) : Statement (.ldyAbs addr) := fun _ => rfl
theorem ldyAbx (addr : Word) : Statement (.ldyAbx addr) := fun _ => rfl
theorem staZp (zz : Byte) : Statement (.staZp zz) := fun _ => rfl
theorem staZpx (zz : Byte) : Statement (.staZpx zz) := fun _ => rfl
theorem staAbs (addr : Word) : Statement (.staAbs addr) := fun _ => rfl
theorem staAbx (addr : Word) : Statement (.staAbx addr) := fun _ => rfl
theorem staAby (addr : Word) : Statement (.staAby addr) := fun _ => rfl
theorem staIzx (zz : Byte) : Statement (.staIzx zz) := fun _ => rfl
theorem staIzy (zz : Byte) : Statement (.staIzy zz) := fun _ => rfl
theorem stxZp (zz : Byte) : Statement (.stxZp zz) := fun _ => rfl
theorem stxZpy (zz : Byte) : Statement (.stxZpy zz) := fun _ => rfl
theorem stxAbs (addr : Word) : Statement (.stxAbs addr) := fun _ => rfl
theorem styZp (zz : Byte) : Statement (.styZp zz) := fun _ => rfl
theorem styZpx (zz : Byte) : Statement (.styZpx zz) := fun _ => rfl
theorem styAbs (addr : Word) : Statement (.styAbs addr) := fun _ => rfl
theorem clc : Statement (.clc) := fun _ => rfl
theorem cld : Statement (.cld) := fun _ => rfl
theorem cli : Statement (.cli) := fun _ => rfl
theorem clv : Statement (.clv) := fun _ => rfl
theorem sec : Statement (.sec) := fun _ => rfl
theorem sed : Statement (.sed) := fun _ => rfl
theorem sei : Statement (.sei) := fun _ => rfl
theorem nop : Statement (.nop) := fun _ => rfl
theorem illegal (op : Byte) : Statement (.illegal op) := fun _ => rfl

end Sys2Proof.Laws.EncodedLength
end

