-- ==== Sys2Proof/Laws/Reset.lean ====
section
/-! SUPPORT. Everything the reset sequence can answer, said once. -/

namespace Sys2Proof.Machine

/-- The two vector reads of reset (R450). -/
theorem Script.resetVector (s : State) :
    Script (busReadWord Machine.resetVector (s.beginOp .reset).resetRegisters) (s.beginOp .reset).resetRegisters
      [(.read, 0xFFFC#16), (.read, 0xFFFD#16)] (mkWord (s.answer 1 0xFFFD#16) (s.answer 0 0xFFFC#16))
      ((s.beginOp .reset).resetRegisters.afterReads 0xFFFC#16 0xFFFD#16) :=
  Script.readWord _ _

/-- The state a completed reset leaves (R450). -/
def State.wasReset (s : State) : State :=
  (((s.beginOp .reset).resetRegisters.afterReads 0xFFFC#16 0xFFFD#16).setPc
    (mkWord (s.answer 1 0xFFFD#16) (s.answer 0 0xFFFC#16))).setRunState .running

theorem hostReset_of_accepts {s : State} (h : s.busAccepts 2 = true) : hostReset s = .next s.wasReset := by
  unfold hostReset
  simp only [(Script.resetVector s).ok h, State.wasReset]

theorem hostReset_of_rejects {s : State} {k : Nat} {access : Access} {info : BusInfo}
    (hk : [(AccessKind.read, 0xFFFC#16), (.read, 0xFFFD#16)][k]? = some access) (h : s.busRejects k info) :
    ∃ u, Cut ([(AccessKind.read, 0xFFFC#16), (.read, 0xFFFD#16)].take (k + 1)) access info (s.beginOp .reset).resetRegisters u ∧
      hostReset s = .fault (.busFault access.2 access.1 info (u.haltReset (.busFault access.2 access.1 info))) := by
  obtain ⟨u, h1, h2⟩ := (Script.resetVector s).rejected k access info hk h
  exact ⟨u, h2, by unfold hostReset; simp only [h1, faultOf]⟩

/-- All that reset can answer. -/
theorem hostReset_cases (s : State) :
    (s.busAccepts 2 = true ∧ hostReset s = .next s.wasReset) ∨
    ∃ k access info u, [(AccessKind.read, 0xFFFC#16), (.read, 0xFFFD#16)][k]? = some access ∧ s.busRejects k info ∧
      Cut ([(AccessKind.read, 0xFFFC#16), (.read, 0xFFFD#16)].take (k + 1)) access info (s.beginOp .reset).resetRegisters u ∧
      hostReset s = .fault (.busFault access.2 access.1 info (u.haltReset (.busFault access.2 access.1 info))) := by
  rcases accepts_or_rejects s 2 with h | ⟨k, info, hk, h⟩
  · exact .inl ⟨h, hostReset_of_accepts h⟩
  · have hk' : [(AccessKind.read, 0xFFFC#16), (.read, 0xFFFD#16)][k]? = some _ := List.getElem?_eq_getElem (by simpa using hk)
    obtain ⟨u, h1, h2⟩ := hostReset_of_rejects hk' h
    exact .inr ⟨k, _, info, u, hk', h, h1, h2⟩

end Sys2Proof.Machine
end

