-- ==== Sys2Proof/Tests/Slice0.lean ====
section
/-! SUPPORT. The model's own tests. Words are written out from spec/opcode_table.json and rule R115, steps from the vectors of
spec/95_test_vectors.md (named by their numbers TV<n>, TR<n>), and the rest from the rule a comment names; none from the model's
answer. The last part has, for every obligation with hypotheses, a witness that meets them. -/

namespace Sys2Proof.Tests

open Sys2Proof Sys2Proof.Machine

/-! ### Well-formedness -/

theorem test_wf_refuses_a_legal_byte_as_illegal : (Instr.illegal 0xA9#8).wf = false := by decide
theorem test_wf_refuses_brk_as_illegal : (Instr.illegal 0x00#8).wf = false := by decide
theorem test_wf_accepts_an_illegal_byte : (Instr.illegal 0x02#8).wf = true := by decide
theorem test_wf_accepts_an_instruction : (Instr.ldaAbx 0xFFFF#16).wf = true := by decide

/-! ### Decoding: a word of every row of the table, first byte lowest -/

theorem test_decode_adc :
    decodeTableWord 16 0x9069 = some (.adcImm 0x90#8) ∧
    decodeTableWord 16 0x9065 = some (.adcZp 0x90#8) ∧
    decodeTableWord 16 0x9075 = some (.adcZpx 0x90#8) ∧
    decodeTableWord 24 0x12346D = some (.adcAbs 0x1234#16) ∧
    decodeTableWord 24 0x12347D = some (.adcAbx 0x1234#16) ∧
    decodeTableWord 24 0x123479 = some (.adcAby 0x1234#16) ∧
    decodeTableWord 16 0x9061 = some (.adcIzx 0x90#8) ∧
    decodeTableWord 16 0x9071 = some (.adcIzy 0x90#8) := by decide

theorem test_decode_sbc :
    decodeTableWord 16 0x90E9 = some (.sbcImm 0x90#8) ∧
    decodeTableWord 16 0x90E5 = some (.sbcZp 0x90#8) ∧
    decodeTableWord 16 0x90F5 = some (.sbcZpx 0x90#8) ∧
    decodeTableWord 24 0x1234ED = some (.sbcAbs 0x1234#16) ∧
    decodeTableWord 24 0x1234FD = some (.sbcAbx 0x1234#16) ∧
    decodeTableWord 24 0x1234F9 = some (.sbcAby 0x1234#16) ∧
    decodeTableWord 16 0x90E1 = some (.sbcIzx 0x90#8) ∧
    decodeTableWord 16 0x90F1 = some (.sbcIzy 0x90#8) := by decide

theorem test_decode_and :
    decodeTableWord 16 0x9029 = some (.andImm 0x90#8) ∧
    decodeTableWord 16 0x9025 = some (.andZp 0x90#8) ∧
    decodeTableWord 16 0x9035 = some (.andZpx 0x90#8) ∧
    decodeTableWord 24 0x12342D = some (.andAbs 0x1234#16) ∧
    decodeTableWord 24 0x12343D = some (.andAbx 0x1234#16) ∧
    decodeTableWord 24 0x123439 = some (.andAby 0x1234#16) ∧
    decodeTableWord 16 0x9021 = some (.andIzx 0x90#8) ∧
    decodeTableWord 16 0x9031 = some (.andIzy 0x90#8) := by decide

theorem test_decode_ora :
    decodeTableWord 16 0x9009 = some (.oraImm 0x90#8) ∧
    decodeTableWord 16 0x9005 = some (.oraZp 0x90#8) ∧
    decodeTableWord 16 0x9015 = some (.oraZpx 0x90#8) ∧
    decodeTableWord 24 0x12340D = some (.oraAbs 0x1234#16) ∧
    decodeTableWord 24 0x12341D = some (.oraAbx 0x1234#16) ∧
    decodeTableWord 24 0x123419 = some (.oraAby 0x1234#16) ∧
    decodeTableWord 16 0x9001 = some (.oraIzx 0x90#8) ∧
    decodeTableWord 16 0x9011 = some (.oraIzy 0x90#8) := by decide

theorem test_decode_eor :
    decodeTableWord 16 0x9049 = some (.eorImm 0x90#8) ∧
    decodeTableWord 16 0x9045 = some (.eorZp 0x90#8) ∧
    decodeTableWord 16 0x9055 = some (.eorZpx 0x90#8) ∧
    decodeTableWord 24 0x12344D = some (.eorAbs 0x1234#16) ∧
    decodeTableWord 24 0x12345D = some (.eorAbx 0x1234#16) ∧
    decodeTableWord 24 0x123459 = some (.eorAby 0x1234#16) ∧
    decodeTableWord 16 0x9041 = some (.eorIzx 0x90#8) ∧
    decodeTableWord 16 0x9051 = some (.eorIzy 0x90#8) := by decide

theorem test_decode_asl :
    decodeTableWord 8 0x0A = some (.aslAcc) ∧
    decodeTableWord 16 0x9006 = some (.aslZp 0x90#8) ∧
    decodeTableWord 16 0x9016 = some (.aslZpx 0x90#8) ∧
    decodeTableWord 24 0x12340E = some (.aslAbs 0x1234#16) ∧
    decodeTableWord 24 0x12341E = some (.aslAbx 0x1234#16) := by decide

theorem test_decode_lsr :
    decodeTableWord 8 0x4A = some (.lsrAcc) ∧
    decodeTableWord 16 0x9046 = some (.lsrZp 0x90#8) ∧
    decodeTableWord 16 0x9056 = some (.lsrZpx 0x90#8) ∧
    decodeTableWord 24 0x12344E = some (.lsrAbs 0x1234#16) ∧
    decodeTableWord 24 0x12345E = some (.lsrAbx 0x1234#16) := by decide

theorem test_decode_rol :
    decodeTableWord 8 0x2A = some (.rolAcc) ∧
    decodeTableWord 16 0x9026 = some (.rolZp 0x90#8) ∧
    decodeTableWord 16 0x9036 = some (.rolZpx 0x90#8) ∧
    decodeTableWord 24 0x12342E = some (.rolAbs 0x1234#16) ∧
    decodeTableWord 24 0x12343E = some (.rolAbx 0x1234#16) := by decide

theorem test_decode_ror :
    decodeTableWord 8 0x6A = some (.rorAcc) ∧
    decodeTableWord 16 0x9066 = some (.rorZp 0x90#8) ∧
    decodeTableWord 16 0x9076 = some (.rorZpx 0x90#8) ∧
    decodeTableWord 24 0x12346E = some (.rorAbs 0x1234#16) ∧
    decodeTableWord 24 0x12347E = some (.rorAbx 0x1234#16) := by decide

theorem test_decode_cmp :
    decodeTableWord 16 0x90C9 = some (.cmpImm 0x90#8) ∧
    decodeTableWord 16 0x90C5 = some (.cmpZp 0x90#8) ∧
    decodeTableWord 16 0x90D5 = some (.cmpZpx 0x90#8) ∧
    decodeTableWord 24 0x1234CD = some (.cmpAbs 0x1234#16) ∧
    decodeTableWord 24 0x1234DD = some (.cmpAbx 0x1234#16) ∧
    decodeTableWord 24 0x1234D9 = some (.cmpAby 0x1234#16) ∧
    decodeTableWord 16 0x90C1 = some (.cmpIzx 0x90#8) ∧
    decodeTableWord 16 0x90D1 = some (.cmpIzy 0x90#8) := by decide

theorem test_decode_cpx :
    decodeTableWord 16 0x90E0 = some (.cpxImm 0x90#8) ∧
    decodeTableWord 16 0x90E4 = some (.cpxZp 0x90#8) ∧
    decodeTableWord 24 0x1234EC = some (.cpxAbs 0x1234#16) := by decide

theorem test_decode_cpy :
    decodeTableWord 16 0x90C0 = some (.cpyImm 0x90#8) ∧
    decodeTableWord 16 0x90C4 = some (.cpyZp 0x90#8) ∧
    decodeTableWord 24 0x1234CC = some (.cpyAbs 0x1234#16) := by decide

theorem test_decode_inc :
    decodeTableWord 16 0x90E6 = some (.incZp 0x90#8) ∧
    decodeTableWord 16 0x90F6 = some (.incZpx 0x90#8) ∧
    decodeTableWord 24 0x1234EE = some (.incAbs 0x1234#16) ∧
    decodeTableWord 24 0x1234FE = some (.incAbx 0x1234#16) := by decide

theorem test_decode_dec :
    decodeTableWord 16 0x90C6 = some (.decZp 0x90#8) ∧
    decodeTableWord 16 0x90D6 = some (.decZpx 0x90#8) ∧
    decodeTableWord 24 0x1234CE = some (.decAbs 0x1234#16) ∧
    decodeTableWord 24 0x1234DE = some (.decAbx 0x1234#16) := by decide

theorem test_decode_lda :
    decodeTableWord 16 0x90A9 = some (.ldaImm 0x90#8) ∧
    decodeTableWord 16 0x90A5 = some (.ldaZp 0x90#8) ∧
    decodeTableWord 16 0x90B5 = some (.ldaZpx 0x90#8) ∧
    decodeTableWord 24 0x1234AD = some (.ldaAbs 0x1234#16) ∧
    decodeTableWord 24 0x1234BD = some (.ldaAbx 0x1234#16) ∧
    decodeTableWord 24 0x1234B9 = some (.ldaAby 0x1234#16) ∧
    decodeTableWord 16 0x90A1 = some (.ldaIzx 0x90#8) ∧
    decodeTableWord 16 0x90B1 = some (.ldaIzy 0x90#8) := by decide

theorem test_decode_ldx :
    decodeTableWord 16 0x90A2 = some (.ldxImm 0x90#8) ∧
    decodeTableWord 16 0x90A6 = some (.ldxZp 0x90#8) ∧
    decodeTableWord 16 0x90B6 = some (.ldxZpy 0x90#8) ∧
    decodeTableWord 24 0x1234AE = some (.ldxAbs 0x1234#16) ∧
    decodeTableWord 24 0x1234BE = some (.ldxAby 0x1234#16) := by decide

theorem test_decode_ldy :
    decodeTableWord 16 0x90A0 = some (.ldyImm 0x90#8) ∧
    decodeTableWord 16 0x90A4 = some (.ldyZp 0x90#8) ∧
    decodeTableWord 16 0x90B4 = some (.ldyZpx 0x90#8) ∧
    decodeTableWord 24 0x1234AC = some (.ldyAbs 0x1234#16) ∧
    decodeTableWord 24 0x1234BC = some (.ldyAbx 0x1234#16) := by decide

theorem test_decode_sta :
    decodeTableWord 16 0x9085 = some (.staZp 0x90#8) ∧
    decodeTableWord 16 0x9095 = some (.staZpx 0x90#8) ∧
    decodeTableWord 24 0x12348D = some (.staAbs 0x1234#16) ∧
    decodeTableWord 24 0x12349D = some (.staAbx 0x1234#16) ∧
    decodeTableWord 24 0x123499 = some (.staAby 0x1234#16) ∧
    decodeTableWord 16 0x9081 = some (.staIzx 0x90#8) ∧
    decodeTableWord 16 0x9091 = some (.staIzy 0x90#8) := by decide

theorem test_decode_stx :
    decodeTableWord 16 0x9086 = some (.stxZp 0x90#8) ∧
    decodeTableWord 16 0x9096 = some (.stxZpy 0x90#8) ∧
    decodeTableWord 24 0x12348E = some (.stxAbs 0x1234#16) := by decide

theorem test_decode_sty :
    decodeTableWord 16 0x9084 = some (.styZp 0x90#8) ∧
    decodeTableWord 16 0x9094 = some (.styZpx 0x90#8) ∧
    decodeTableWord 24 0x12348C = some (.styAbs 0x1234#16) := by decide

theorem test_decode_branches :
    decodeTableWord 16 0x9090 = some (.bcc 0x90#8) ∧
    decodeTableWord 16 0x90B0 = some (.bcs 0x90#8) ∧
    decodeTableWord 16 0x90F0 = some (.beq 0x90#8) ∧
    decodeTableWord 16 0x90D0 = some (.bne 0x90#8) ∧
    decodeTableWord 16 0x9030 = some (.bmi 0x90#8) ∧
    decodeTableWord 16 0x9010 = some (.bpl 0x90#8) ∧
    decodeTableWord 16 0x9050 = some (.bvc 0x90#8) ∧
    decodeTableWord 16 0x9070 = some (.bvs 0x90#8) := by decide

theorem test_decode_stack :
    decodeTableWord 8 0x48 = some (.pha) ∧
    decodeTableWord 8 0x08 = some (.php) ∧
    decodeTableWord 8 0x68 = some (.pla) ∧
    decodeTableWord 8 0x28 = some (.plp) := by decide

theorem test_decode_control :
    decodeTableWord 24 0x12344C = some (.jmpAbs 0x1234#16) ∧
    decodeTableWord 24 0x12346C = some (.jmpInd 0x1234#16) ∧
    decodeTableWord 24 0x123420 = some (.jsr 0x1234#16) ∧
    decodeTableWord 8 0x60 = some (.rts) ∧
    decodeTableWord 16 0x0000 = some (.brk) ∧
    decodeTableWord 8 0x40 = some (.rti) := by decide

theorem test_decode_transfers :
    decodeTableWord 8 0xAA = some (.tax) ∧
    decodeTableWord 8 0xA8 = some (.tay) ∧
    decodeTableWord 8 0x8A = some (.txa) ∧
    decodeTableWord 8 0x98 = some (.tya) ∧
    decodeTableWord 8 0xBA = some (.tsx) ∧
    decodeTableWord 8 0x9A = some (.txs) ∧
    decodeTableWord 8 0xE8 = some (.inx) ∧
    decodeTableWord 8 0xC8 = some (.iny) ∧
    decodeTableWord 8 0xCA = some (.dex) ∧
    decodeTableWord 8 0x88 = some (.dey) := by decide

theorem test_decode_flags :
    decodeTableWord 8 0x18 = some (.clc) ∧
    decodeTableWord 8 0xD8 = some (.cld) ∧
    decodeTableWord 8 0x58 = some (.cli) ∧
    decodeTableWord 8 0xB8 = some (.clv) ∧
    decodeTableWord 8 0x38 = some (.sec) ∧
    decodeTableWord 8 0xF8 = some (.sed) ∧
    decodeTableWord 8 0x78 = some (.sei) ∧
    decodeTableWord 8 0xEA = some (.nop) := by decide

theorem test_decode_bit :
    decodeTableWord 16 0x9024 = some (.bitZp 0x90#8) ∧
    decodeTableWord 24 0x12342C = some (.bitAbs 0x1234#16) := by decide

/-- R117: bytes without a descriptor decode to the illegal-opcode instruction. -/
theorem test_decode_illegal : decodeTableWord 8 0x02 = some (.illegal 0x02#8) ∧ decodeTableWord 8 0x89 = some (.illegal 0x89#8) ∧
    decodeTableWord 8 0xFF = some (.illegal 0xFF#8) := by decide

/-- R101: an instruction cut short is no instruction. -/
theorem test_decode_truncated : (decode [0xAD#8, 0x34#8]).toOption = none ∧ (decode []).toOption = none := by decide

/-- R101, R121: the bytes an encoding consists of. -/
theorem test_encode : encode (.ldaAbs 0x1234#16) = [0xAD#8, 0x34#8, 0x12#8] ∧ encode .brk = [0x00#8, 0x00#8] ∧
    encode (.illegal 0x02#8) = [0x02#8] := by decide

/-! ### Steps: the vectors of spec/95_test_vectors.md -/

/-- The bytes placed from each address on, over the plain memory. -/
def placed (bytes : List (Nat × List Byte)) : List Host.Cell :=
  bytes.foldl (fun mem r => (r.2.foldl (fun acc b => (acc.1 + 1, Memory.write acc.2 acc.1 b)) (r.1, mem)).2) []

/-- A running core with the default parameters and no history. -/
def machine (a x y sp p : Byte) (pc : Word) (bytes : List (Nat × List Byte)) : State where
  a := a
  x := x
  y := y
  sp := sp
  pc := pc
  p := p
  runState := .running
  irqLine := false
  nmiPending := false
  bus := ⟨placed bytes, [], []⟩
  params := Params.default
  lastCycles := none
  freeCount := 0

/-- What a vector lists of a completed step. -/
structure Seen where
  a : Byte
  x : Byte
  y : Byte
  sp : Byte
  p : Byte
  pc : Word
  cycles : Nat
  accesses : List BusEvent
  deriving DecidableEq, Repr

def rd (addr : Word) (v : Byte) : BusEvent := .read addr v
def wr (addr : Word) (v : Byte) : BusEvent := .write addr v

def seen (s : State) : Option Seen :=
  match step s with
  | .next t =>
    t.lastCycles.map fun n =>
      { a := t.a, x := t.x, y := t.y, sp := t.sp, p := t.status, pc := t.pc, cycles := n
        accesses := (t.bus.history.reverse.drop (s.bus.history.length + 1)) }
  | .fault _ | .refused _ => none

/-- TV2: ADC binary, §8 example 2 (R150). -/
theorem test_tv2_adc : seen (machine 0x50 0x00 0x00 0xFF 0x20 0x0200 [(0x0200, [0x69#8, 0x50#8])]) =
    some ⟨0xA0, 0x00, 0x00, 0xFF, 0xE0, 0x0202, 2, [rd 0x0200 0x69, rd 0x0201 0x50]⟩ := by decide

/-- TV14: ADC decimal 79+00+1: V set (R151). -/
theorem test_tv14_adc : seen (machine 0x79 0x00 0x00 0xFF 0x29 0x0200 [(0x0200, [0x69#8, 0x00#8])]) =
    some ⟨0x80, 0x00, 0x00, 0xFF, 0xE8, 0x0202, 2, [rd 0x0200 0x69, rd 0x0201 0x00]⟩ := by decide

/-- TV8: ADC ABX page cross (+1 cycle) (R150). -/
theorem test_tv8_adc : seen (machine 0x01 0x10 0x00 0xFF 0x20 0x0200 [(0x0200, [0x7D#8, 0xF8#8, 0x30#8]), (0x3108, [0x02#8])]) =
    some ⟨0x03, 0x10, 0x00, 0xFF, 0x20, 0x0203, 5, [rd 0x0200 0x7D, rd 0x0201 0xF8, rd 0x0202 0x30, rd 0x3108 0x02]⟩ := by decide

/-- TV9: ADC IZY page cross (+1 cycle) (R150). -/
theorem test_tv9_adc : seen (machine 0x01 0x00 0x01 0xFF 0x20 0x0200 [(0x0200, [0x71#8, 0x40#8]), (0x0040, [0xFF#8, 0x30#8]), (0x3100, [0x03#8])]) =
    some ⟨0x04, 0x00, 0x01, 0xFF, 0x20, 0x0202, 6, [rd 0x0200 0x71, rd 0x0201 0x40, rd 0x0040 0xFF, rd 0x0041 0x30, rd 0x3100 0x03]⟩ := by decide

/-- TV21: SBC 7F-FF overflow (R152). -/
theorem test_tv21_sbc : seen (machine 0x7F 0x00 0x00 0xFF 0x21 0x0200 [(0x0200, [0xE9#8, 0xFF#8])]) =
    some ⟨0x80, 0x00, 0x00, 0xFF, 0xE0, 0x0202, 2, [rd 0x0200 0xE9, rd 0x0201 0xFF]⟩ := by decide

/-- TV27: SBC decimal 00-01 (R153). -/
theorem test_tv27_sbc : seen (machine 0x00 0x00 0x00 0xFF 0x29 0x0200 [(0x0200, [0xE9#8, 0x01#8])]) =
    some ⟨0x99, 0x00, 0x00, 0xFF, 0xA8, 0x0202, 2, [rd 0x0200 0xE9, rd 0x0201 0x01]⟩ := by decide

/-- TV28: AND (R171). -/
theorem test_tv28_and : seen (machine 0xF0 0x00 0x00 0xFF 0x20 0x0200 [(0x0200, [0x29#8, 0x3C#8])]) =
    some ⟨0x30, 0x00, 0x00, 0xFF, 0x20, 0x0202, 2, [rd 0x0200 0x29, rd 0x0201 0x3C]⟩ := by decide

/-- TV30: ORA negative (R172). -/
theorem test_tv30_ora : seen (machine 0x01 0x00 0x00 0xFF 0x20 0x0200 [(0x0200, [0x09#8, 0x80#8])]) =
    some ⟨0x81, 0x00, 0x00, 0xFF, 0xA0, 0x0202, 2, [rd 0x0200 0x09, rd 0x0201 0x80]⟩ := by decide

/-- TV32: EOR ABY page cross (+1 cycle) (R173). -/
theorem test_tv32_eor : seen (machine 0x0F 0x00 0x01 0xFF 0x20 0x0200 [(0x0200, [0x59#8, 0xFF#8, 0x20#8]), (0x2100, [0xF0#8])]) =
    some ⟨0xFF, 0x00, 0x01, 0xFF, 0xA0, 0x0203, 5, [rd 0x0200 0x59, rd 0x0201 0xFF, rd 0x0202 0x20, rd 0x2100 0xF0]⟩ := by decide

/-- TV33: BIT: Z from A&M, N and V from M (R174). -/
theorem test_tv33_bit : seen (machine 0x01 0x00 0x00 0xFF 0x20 0x0200 [(0x0200, [0x24#8, 0x10#8]), (0x0010, [0xC0#8])]) =
    some ⟨0x01, 0x00, 0x00, 0xFF, 0xE2, 0x0202, 3, [rd 0x0200 0x24, rd 0x0201 0x10, rd 0x0010 0xC0]⟩ := by decide

/-- TV35: ASL A carry out (R175). -/
theorem test_tv35_asl : seen (machine 0x81 0x00 0x00 0xFF 0x20 0x0200 [(0x0200, [0x0A#8])]) =
    some ⟨0x02, 0x00, 0x00, 0xFF, 0x21, 0x0201, 2, [rd 0x0200 0x0A]⟩ := by decide

/-- TV37: ASL ABX across a page: fixed 7 cycles (R175). -/
theorem test_tv37_asl : seen (machine 0x00 0x01 0x00 0xFF 0x20 0x0200 [(0x0200, [0x1E#8, 0xFF#8, 0x20#8]), (0x2100, [0x40#8])]) =
    some ⟨0x00, 0x01, 0x00, 0xFF, 0xA0, 0x0203, 7, [rd 0x0200 0x1E, rd 0x0201 0xFF, rd 0x0202 0x20, rd 0x2100 0x40, wr 0x2100 0x80]⟩ := by decide

/-- TV38: LSR A to zero with carry (R176). -/
theorem test_tv38_lsr : seen (machine 0x01 0x00 0x00 0xFF 0x20 0x0200 [(0x0200, [0x4A#8])]) =
    some ⟨0x00, 0x00, 0x00, 0xFF, 0x23, 0x0201, 2, [rd 0x0200 0x4A]⟩ := by decide

/-- TV39: LSR zp (R176). -/
theorem test_tv39_lsr : seen (machine 0x00 0x00 0x00 0xFF 0x20 0x0200 [(0x0200, [0x46#8, 0x10#8]), (0x0010, [0xFE#8])]) =
    some ⟨0x00, 0x00, 0x00, 0xFF, 0x20, 0x0202, 5, [rd 0x0200 0x46, rd 0x0201 0x10, rd 0x0010 0xFE, wr 0x0010 0x7F]⟩ := by decide

/-- TV41: ROL abs (R177). -/
theorem test_tv41_rol : seen (machine 0x00 0x00 0x00 0xFF 0x21 0x0200 [(0x0200, [0x2E#8, 0x00#8, 0x20#8]), (0x2000, [0x40#8])]) =
    some ⟨0x00, 0x00, 0x00, 0xFF, 0xA0, 0x0203, 6, [rd 0x0200 0x2E, rd 0x0201 0x00, rd 0x0202 0x20, rd 0x2000 0x40, wr 0x2000 0x81]⟩ := by decide

/-- TV42: ROR A with carry in (R178). -/
theorem test_tv42_ror : seen (machine 0x01 0x00 0x00 0xFF 0x21 0x0200 [(0x0200, [0x6A#8])]) =
    some ⟨0x80, 0x00, 0x00, 0xFF, 0xA1, 0x0201, 2, [rd 0x0200 0x6A]⟩ := by decide

/-- TV43: ROR zpx wraps in page 0 (R178). -/
theorem test_tv43_ror : seen (machine 0x00 0x02 0x00 0xFF 0x20 0x0200 [(0x0200, [0x76#8, 0xFF#8]), (0x0001, [0x02#8])]) =
    some ⟨0x00, 0x02, 0x00, 0xFF, 0x20, 0x0202, 6, [rd 0x0200 0x76, rd 0x0201 0xFF, rd 0x0001 0x02, wr 0x0001 0x01]⟩ := by decide

/-- TV46: CMP register less (unsigned) (R201). -/
theorem test_tv46_cmp : seen (machine 0x01 0x00 0x00 0xFF 0x20 0x0200 [(0x0200, [0xC9#8, 0xFF#8])]) =
    some ⟨0x01, 0x00, 0x00, 0xFF, 0x20, 0x0202, 2, [rd 0x0200 0xC9, rd 0x0201 0xFF]⟩ := by decide

/-- TV48: CMP IZX (R201). -/
theorem test_tv48_cmp : seen (machine 0x05 0x02 0x00 0xFF 0x20 0x0200 [(0x0200, [0xC1#8, 0x10#8]), (0x0012, [0x00#8, 0x30#8]), (0x3000, [0x05#8])]) =
    some ⟨0x05, 0x02, 0x00, 0xFF, 0x23, 0x0202, 6, [rd 0x0200 0xC1, rd 0x0201 0x10, rd 0x0012 0x00, rd 0x0013 0x30, rd 0x3000 0x05]⟩ := by decide

/-- TV49: CPX zp (R202). -/
theorem test_tv49_cpx : seen (machine 0x00 0x00 0x00 0xFF 0x20 0x0200 [(0x0200, [0xE4#8, 0x10#8]), (0x0010, [0x01#8])]) =
    some ⟨0x00, 0x00, 0x00, 0xFF, 0xA0, 0x0202, 3, [rd 0x0200 0xE4, rd 0x0201 0x10, rd 0x0010 0x01]⟩ := by decide

/-- TV50: CPY abs (R203). -/
theorem test_tv50_cpy : seen (machine 0x00 0x00 0xFF 0xFF 0x20 0x0200 [(0x0200, [0xCC#8, 0x00#8, 0x20#8]), (0x2000, [0xFF#8])]) =
    some ⟨0x00, 0x00, 0xFF, 0xFF, 0x23, 0x0203, 4, [rd 0x0200 0xCC, rd 0x0201 0x00, rd 0x0202 0x20, rd 0x2000 0xFF]⟩ := by decide

/-- TV51: BEQ not taken: 2 cycles (R223). -/
theorem test_tv51_beq : seen (machine 0x00 0x00 0x00 0xFF 0x20 0x0200 [(0x0200, [0xF0#8, 0x10#8])]) =
    some ⟨0x00, 0x00, 0x00, 0xFF, 0x20, 0x0202, 2, [rd 0x0200 0xF0, rd 0x0201 0x10]⟩ := by decide

/-- TV52: BEQ taken same page: 3 cycles (R223). -/
theorem test_tv52_beq : seen (machine 0x00 0x00 0x00 0xFF 0x22 0x0200 [(0x0200, [0xF0#8, 0x10#8])]) =
    some ⟨0x00, 0x00, 0x00, 0xFF, 0x22, 0x0212, 3, [rd 0x0200 0xF0, rd 0x0201 0x10]⟩ := by decide

/-- TV53: BNE taken to itself (R224). -/
theorem test_tv53_bne : seen (machine 0x00 0x00 0x00 0xFF 0x20 0x0200 [(0x0200, [0xD0#8, 0xFE#8])]) =
    some ⟨0x00, 0x00, 0x00, 0xFF, 0x20, 0x0200, 3, [rd 0x0200 0xD0, rd 0x0201 0xFE]⟩ := by decide

/-- TV54: BCC taken forward across page: 4 cycles (R221). -/
theorem test_tv54_bcc : seen (machine 0x00 0x00 0x00 0xFF 0x20 0x02F0 [(0x02F0, [0x90#8, 0x10#8])]) =
    some ⟨0x00, 0x00, 0x00, 0xFF, 0x20, 0x0302, 4, [rd 0x02F0 0x90, rd 0x02F1 0x10]⟩ := by decide

/-- TV55: BCS taken backward across page: 4 cycles (R222). -/
theorem test_tv55_bcs : seen (machine 0x00 0x00 0x00 0xFF 0x21 0x0300 [(0x0300, [0xB0#8, 0xFC#8])]) =
    some ⟨0x00, 0x00, 0x00, 0xFF, 0x21, 0x02FE, 4, [rd 0x0300 0xB0, rd 0x0301 0xFC]⟩ := by decide

/-- TV56: BMI: branch at 0x02FE, target 0x0300 = page of PC_next, 3 cycles (D21) (R225). -/
theorem test_tv56_bmi : seen (machine 0x00 0x00 0x00 0xFF 0xA0 0x02FE [(0x02FE, [0x30#8, 0x00#8])]) =
    some ⟨0x00, 0x00, 0x00, 0xFF, 0xA0, 0x0300, 3, [rd 0x02FE 0x30, rd 0x02FF 0x00]⟩ := by decide

/-- TV57: BPL taken, offset -128 (R226). -/
theorem test_tv57_bpl : seen (machine 0x00 0x00 0x00 0xFF 0x20 0x0280 [(0x0280, [0x10#8, 0x80#8])]) =
    some ⟨0x00, 0x00, 0x00, 0xFF, 0x20, 0x0202, 3, [rd 0x0280 0x10, rd 0x0281 0x80]⟩ := by decide

/-- TV60: BPL target wraps past 0xFFFF (R226). -/
theorem test_tv60_bpl : seen (machine 0x00 0x00 0x00 0xFF 0x20 0xFFF0 [(0xFFF0, [0x10#8, 0x10#8])]) =
    some ⟨0x00, 0x00, 0x00, 0xFF, 0x20, 0x0002, 4, [rd 0xFFF0 0x10, rd 0xFFF1 0x10]⟩ := by decide

/-- TV58: BVC not taken (V=1) (R227). -/
theorem test_tv58_bvc : seen (machine 0x00 0x00 0x00 0xFF 0x60 0x0200 [(0x0200, [0x50#8, 0x05#8])]) =
    some ⟨0x00, 0x00, 0x00, 0xFF, 0x60, 0x0202, 2, [rd 0x0200 0x50, rd 0x0201 0x05]⟩ := by decide

/-- TV59: BVS taken, offset +127 (R228). -/
theorem test_tv59_bvs : seen (machine 0x00 0x00 0x00 0xFF 0x60 0x0200 [(0x0200, [0x70#8, 0x7F#8])]) =
    some ⟨0x00, 0x00, 0x00, 0xFF, 0x60, 0x0281, 3, [rd 0x0200 0x70, rd 0x0201 0x7F]⟩ := by decide

/-- TV62: PHA with SP=0x00 wraps (R240). -/
theorem test_tv62_pha : seen (machine 0x42 0x00 0x00 0x00 0x20 0x0200 [(0x0200, [0x48#8])]) =
    some ⟨0x42, 0x00, 0x00, 0xFF, 0x20, 0x0201, 3, [rd 0x0200 0x48, wr 0x0100 0x42]⟩ := by decide

/-- TV63: PHP pushes P OR 0x30 (R241). -/
theorem test_tv63_php : seen (machine 0x00 0x00 0x00 0xFF 0xE3 0x0200 [(0x0200, [0x08#8])]) =
    some ⟨0x00, 0x00, 0x00, 0xFE, 0xE3, 0x0201, 3, [rd 0x0200 0x08, wr 0x01FF 0xF3]⟩ := by decide

/-- TV64: PLA sets N (R242). -/
theorem test_tv64_pla : seen (machine 0x00 0x00 0x00 0xFE 0x20 0x0200 [(0x0200, [0x68#8]), (0x01FF, [0x80#8])]) =
    some ⟨0x80, 0x00, 0x00, 0xFF, 0xA0, 0x0201, 4, [rd 0x0200 0x68, rd 0x01FF 0x80]⟩ := by decide

/-- TV66: PLA with SP=0xFF wraps to 0x0100 (R242). -/
theorem test_tv66_pla : seen (machine 0x00 0x00 0x00 0xFF 0x20 0x0200 [(0x0200, [0x68#8]), (0x0100, [0x7F#8])]) =
    some ⟨0x7F, 0x00, 0x00, 0x00, 0x20, 0x0201, 4, [rd 0x0200 0x68, rd 0x0100 0x7F]⟩ := by decide

/-- TV67: PLP of 0xFF keeps B=0, U=1 (R243). -/
theorem test_tv67_plp : seen (machine 0x00 0x00 0x00 0xFE 0x20 0x0200 [(0x0200, [0x28#8]), (0x01FF, [0xFF#8])]) =
    some ⟨0x00, 0x00, 0x00, 0xFF, 0xEF, 0x0201, 4, [rd 0x0200 0x28, rd 0x01FF 0xFF]⟩ := by decide

/-- TV70: JMP abs (R260). -/
theorem test_tv70_jmp : seen (machine 0x00 0x00 0x00 0xFF 0x20 0x0200 [(0x0200, [0x4C#8, 0x34#8, 0x12#8])]) =
    some ⟨0x00, 0x00, 0x00, 0xFF, 0x20, 0x1234, 3, [rd 0x0200 0x4C, rd 0x0201 0x34, rd 0x0202 0x12]⟩ := by decide

/-- TV71: JMP indirect, §8 page-wrap defect (R260). -/
theorem test_tv71_jmp : seen (machine 0x00 0x00 0x00 0xFF 0x20 0x0200 [(0x0200, [0x6C#8, 0xFF#8, 0x10#8]), (0x10FF, [0x34#8]), (0x1000, [0x12#8]), (0x1100, [0x56#8])]) =
    some ⟨0x00, 0x00, 0x00, 0xFF, 0x20, 0x1234, 5, [rd 0x0200 0x6C, rd 0x0201 0xFF, rd 0x0202 0x10, rd 0x10FF 0x34, rd 0x1000 0x12]⟩ := by decide

/-- TV73: JSR at 0x1000 (§8) (R261). -/
theorem test_tv73_jsr : seen (machine 0x00 0x00 0x00 0xFF 0x20 0x1000 [(0x1000, [0x20#8, 0x00#8, 0x20#8])]) =
    some ⟨0x00, 0x00, 0x00, 0xFD, 0x20, 0x2000, 6, [rd 0x1000 0x20, rd 0x1001 0x00, rd 0x1002 0x20, wr 0x01FF 0x10, wr 0x01FE 0x02]⟩ := by decide

/-- TV76: JSR with SP=0x00 wraps (R261). -/
theorem test_tv76_jsr : seen (machine 0x00 0x00 0x00 0x00 0x20 0x0200 [(0x0200, [0x20#8, 0x00#8, 0x20#8])]) =
    some ⟨0x00, 0x00, 0x00, 0xFE, 0x20, 0x2000, 6, [rd 0x0200 0x20, rd 0x0201 0x00, rd 0x0202 0x20, wr 0x0100 0x02, wr 0x01FF 0x02]⟩ := by decide

/-- TV74: RTS back to 0x1003 (§8) (R262). -/
theorem test_tv74_rts : seen (machine 0x00 0x00 0x00 0xFD 0x20 0x2000 [(0x2000, [0x60#8]), (0x01FE, [0x02#8, 0x10#8])]) =
    some ⟨0x00, 0x00, 0x00, 0xFF, 0x20, 0x1003, 6, [rd 0x2000 0x60, rd 0x01FE 0x02, rd 0x01FF 0x10]⟩ := by decide

/-- TV75: RTS of a pulled 0xFFFF returns to 0x0000 (R262). -/
theorem test_tv75_rts : seen (machine 0x00 0x00 0x00 0xFD 0x20 0x0200 [(0x0200, [0x60#8]), (0x01FE, [0xFF#8, 0xFF#8])]) =
    some ⟨0x00, 0x00, 0x00, 0xFF, 0x20, 0x0000, 6, [rd 0x0200 0x60, rd 0x01FE 0xFF, rd 0x01FF 0xFF]⟩ := by decide

/-- TV77: BRK (R263). -/
theorem test_tv77_brk : seen (machine 0x00 0x00 0x00 0xFF 0x20 0x0300 [(0x0300, [0x00#8, 0x00#8]), (0xFFFE, [0x00#8, 0x90#8])]) =
    some ⟨0x00, 0x00, 0x00, 0xFC, 0x24, 0x9000, 7, [rd 0x0300 0x00, wr 0x01FF 0x03, wr 0x01FE 0x02, wr 0x01FD 0x30, rd 0xFFFE 0x00, rd 0xFFFF 0x90]⟩ := by decide

/-- TV78: RTI after the BRK (R264). -/
theorem test_tv78_rti : seen (machine 0x00 0x00 0x00 0xFC 0x24 0x9000 [(0x9000, [0x40#8]), (0x01FD, [0x30#8, 0x02#8, 0x03#8])]) =
    some ⟨0x00, 0x00, 0x00, 0xFF, 0x20, 0x0302, 6, [rd 0x9000 0x40, rd 0x01FD 0x30, rd 0x01FE 0x02, rd 0x01FF 0x03]⟩ := by decide

/-- TV79: RTI keeps B, forces U, restores I=0 (R264). -/
theorem test_tv79_rti : seen (machine 0x00 0x00 0x00 0xFC 0x34 0x9000 [(0x9000, [0x40#8]), (0x01FD, [0xC3#8, 0x00#8, 0x04#8])]) =
    some ⟨0x00, 0x00, 0x00, 0xFF, 0xF3, 0x0400, 6, [rd 0x9000 0x40, rd 0x01FD 0xC3, rd 0x01FE 0x00, rd 0x01FF 0x04]⟩ := by decide

/-- TV80: TAX zero (R290). -/
theorem test_tv80_tax : seen (machine 0x00 0x55 0x00 0xFF 0x20 0x0200 [(0x0200, [0xAA#8])]) =
    some ⟨0x00, 0x00, 0x00, 0xFF, 0x22, 0x0201, 2, [rd 0x0200 0xAA]⟩ := by decide

/-- TV81: TAY negative (R291). -/
theorem test_tv81_tay : seen (machine 0x80 0x00 0x00 0xFF 0x20 0x0200 [(0x0200, [0xA8#8])]) =
    some ⟨0x80, 0x00, 0x80, 0xFF, 0xA0, 0x0201, 2, [rd 0x0200 0xA8]⟩ := by decide

/-- TV82: TXA (R292). -/
theorem test_tv82_txa : seen (machine 0x00 0xC3 0x00 0xFF 0x20 0x0200 [(0x0200, [0x8A#8])]) =
    some ⟨0xC3, 0xC3, 0x00, 0xFF, 0xA0, 0x0201, 2, [rd 0x0200 0x8A]⟩ := by decide

/-- TV83: TYA (R293). -/
theorem test_tv83_tya : seen (machine 0xFF 0x00 0x01 0xFF 0x20 0x0200 [(0x0200, [0x98#8])]) =
    some ⟨0x01, 0x00, 0x01, 0xFF, 0x20, 0x0201, 2, [rd 0x0200 0x98]⟩ := by decide

/-- TV84: TSX after reset SP (R294). -/
theorem test_tv84_tsx : seen (machine 0x00 0x00 0x00 0xFF 0x20 0x0200 [(0x0200, [0xBA#8])]) =
    some ⟨0x00, 0xFF, 0x00, 0xFF, 0xA0, 0x0201, 2, [rd 0x0200 0xBA]⟩ := by decide

/-- TV85: TXS does not touch flags (R295). -/
theorem test_tv85_txs : seen (machine 0x00 0x00 0x00 0xFF 0xA0 0x0200 [(0x0200, [0x9A#8])]) =
    some ⟨0x00, 0x00, 0x00, 0x00, 0xA0, 0x0201, 2, [rd 0x0200 0x9A]⟩ := by decide

/-- TV86: INX wraps, C unchanged (R296). -/
theorem test_tv86_inx : seen (machine 0x00 0xFF 0x00 0xFF 0x21 0x0200 [(0x0200, [0xE8#8])]) =
    some ⟨0x00, 0x00, 0x00, 0xFF, 0x23, 0x0201, 2, [rd 0x0200 0xE8]⟩ := by decide

/-- TV87: INY to negative (R297). -/
theorem test_tv87_iny : seen (machine 0x00 0x00 0x7F 0xFF 0x20 0x0200 [(0x0200, [0xC8#8])]) =
    some ⟨0x00, 0x00, 0x80, 0xFF, 0xA0, 0x0201, 2, [rd 0x0200 0xC8]⟩ := by decide

/-- TV88: DEX wraps (R298). -/
theorem test_tv88_dex : seen (machine 0x00 0x00 0x00 0xFF 0x20 0x0200 [(0x0200, [0xCA#8])]) =
    some ⟨0x00, 0xFF, 0x00, 0xFF, 0xA0, 0x0201, 2, [rd 0x0200 0xCA]⟩ := by decide

/-- TV89: DEY to zero (R299). -/
theorem test_tv89_dey : seen (machine 0x00 0x00 0x01 0xFF 0x20 0x0200 [(0x0200, [0x88#8])]) =
    some ⟨0x00, 0x00, 0x00, 0xFF, 0x22, 0x0201, 2, [rd 0x0200 0x88]⟩ := by decide

/-- TV90: INC zp to negative (R300). -/
theorem test_tv90_inc : seen (machine 0x00 0x00 0x00 0xFF 0x20 0x0200 [(0x0200, [0xE6#8, 0x10#8]), (0x0010, [0x7F#8])]) =
    some ⟨0x00, 0x00, 0x00, 0xFF, 0xA0, 0x0202, 5, [rd 0x0200 0xE6, rd 0x0201 0x10, rd 0x0010 0x7F, wr 0x0010 0x80]⟩ := by decide

/-- TV91: INC ABX wraps to zero, 7 cycles (R300). -/
theorem test_tv91_inc : seen (machine 0x00 0x01 0x00 0xFF 0x20 0x0200 [(0x0200, [0xFE#8, 0xFF#8, 0x20#8]), (0x2100, [0xFF#8])]) =
    some ⟨0x00, 0x01, 0x00, 0xFF, 0x22, 0x0203, 7, [rd 0x0200 0xFE, rd 0x0201 0xFF, rd 0x0202 0x20, rd 0x2100 0xFF, wr 0x2100 0x00]⟩ := by decide

/-- TV92: DEC abs to zero (R301). -/
theorem test_tv92_dec : seen (machine 0x00 0x00 0x00 0xFF 0x20 0x0200 [(0x0200, [0xCE#8, 0x00#8, 0x20#8]), (0x2000, [0x01#8])]) =
    some ⟨0x00, 0x00, 0x00, 0xFF, 0x22, 0x0203, 6, [rd 0x0200 0xCE, rd 0x0201 0x00, rd 0x0202 0x20, rd 0x2000 0x01, wr 0x2000 0x00]⟩ := by decide

/-- TV93: DEC zpx wraps in page 0 (R301). -/
theorem test_tv93_dec : seen (machine 0x00 0x01 0x00 0xFF 0x20 0x0200 [(0x0200, [0xD6#8, 0xFF#8]), (0x0000, [0x00#8])]) =
    some ⟨0x00, 0x01, 0x00, 0xFF, 0xA0, 0x0202, 6, [rd 0x0200 0xD6, rd 0x0201 0xFF, rd 0x0000 0x00, wr 0x0000 0xFF]⟩ := by decide

/-- TV97: LDA IZX pointer wraps 0x00FF->0x0000 (R320). -/
theorem test_tv97_lda : seen (machine 0x00 0x01 0x00 0xFF 0x20 0x0200 [(0x0200, [0xA1#8, 0xFE#8]), (0x00FF, [0x34#8]), (0x0000, [0x12#8]), (0x1234, [0x5A#8])]) =
    some ⟨0x5A, 0x01, 0x00, 0xFF, 0x20, 0x0202, 6, [rd 0x0200 0xA1, rd 0x0201 0xFE, rd 0x00FF 0x34, rd 0x0000 0x12, rd 0x1234 0x5A]⟩ := by decide

/-- TV98: LDA IZY pointer at 0x00FF (R320). -/
theorem test_tv98_lda : seen (machine 0x00 0x00 0x00 0xFF 0x20 0x0200 [(0x0200, [0xB1#8, 0xFF#8]), (0x00FF, [0x00#8]), (0x0000, [0x40#8]), (0x4000, [0x01#8])]) =
    some ⟨0x01, 0x00, 0x00, 0xFF, 0x20, 0x0202, 5, [rd 0x0200 0xB1, rd 0x0201 0xFF, rd 0x00FF 0x00, rd 0x0000 0x40, rd 0x4000 0x01]⟩ := by decide

/-- TV100: LDX ZPY wraps (R321). -/
theorem test_tv100_ldx : seen (machine 0x00 0x00 0x02 0xFF 0x20 0x0200 [(0x0200, [0xB6#8, 0xFF#8]), (0x0001, [0x80#8])]) =
    some ⟨0x00, 0x80, 0x02, 0xFF, 0xA0, 0x0202, 4, [rd 0x0200 0xB6, rd 0x0201 0xFF, rd 0x0001 0x80]⟩ := by decide

/-- TV102: LDY ABX page cross (R322). -/
theorem test_tv102_ldy : seen (machine 0x00 0x20 0x00 0xFF 0x20 0x0200 [(0x0200, [0xBC#8, 0xF0#8, 0x20#8]), (0x2110, [0x01#8])]) =
    some ⟨0x00, 0x20, 0x01, 0xFF, 0x20, 0x0203, 5, [rd 0x0200 0xBC, rd 0x0201 0xF0, rd 0x0202 0x20, rd 0x2110 0x01]⟩ := by decide

/-- TV103: STA ABX across page, always: 5 cycles (R323). -/
theorem test_tv103_sta : seen (machine 0x42 0x01 0x00 0xFF 0x20 0x0200 [(0x0200, [0x9D#8, 0xFF#8, 0x12#8])]) =
    some ⟨0x42, 0x01, 0x00, 0xFF, 0x20, 0x0203, 5, [rd 0x0200 0x9D, rd 0x0201 0xFF, rd 0x0202 0x12, wr 0x1300 0x42]⟩ := by decide

/-- TV105: STA ABX no cross, on_cross: 4 cycles (R323). -/
theorem test_tv105_sta : seen { machine 0x42 0x01 0x00 0xFF 0x20 0x0200 [(0x0200, [0x9D#8, 0x00#8, 0x12#8])] with params := ⟨.nmos, .onCross⟩ } =
    some ⟨0x42, 0x01, 0x00, 0xFF, 0x20, 0x0203, 4, [rd 0x0200 0x9D, rd 0x0201 0x00, rd 0x0202 0x12, wr 0x1201 0x42]⟩ := by decide

/-- TV109: STX ZPY wraps (R324). -/
theorem test_tv109_stx : seen (machine 0x00 0x11 0x01 0xFF 0x20 0x0200 [(0x0200, [0x96#8, 0xFF#8])]) =
    some ⟨0x00, 0x11, 0x01, 0xFF, 0x20, 0x0202, 4, [rd 0x0200 0x96, rd 0x0201 0xFF, wr 0x0000 0x11]⟩ := by decide

/-- TV110: STY abs (R325). -/
theorem test_tv110_sty : seen (machine 0x00 0x00 0x22 0xFF 0x20 0x0200 [(0x0200, [0x8C#8, 0x34#8, 0x12#8])]) =
    some ⟨0x00, 0x00, 0x22, 0xFF, 0x20, 0x0203, 4, [rd 0x0200 0x8C, rd 0x0201 0x34, rd 0x0202 0x12, wr 0x1234 0x22]⟩ := by decide

/-- TV111: CLC (R340). -/
theorem test_tv111_clc : seen (machine 0x00 0x00 0x00 0xFF 0x25 0x0200 [(0x0200, [0x18#8])]) =
    some ⟨0x00, 0x00, 0x00, 0xFF, 0x24, 0x0201, 2, [rd 0x0200 0x18]⟩ := by decide

/-- TV112: CLD (R341). -/
theorem test_tv112_cld : seen (machine 0x00 0x00 0x00 0xFF 0x2C 0x0200 [(0x0200, [0xD8#8])]) =
    some ⟨0x00, 0x00, 0x00, 0xFF, 0x24, 0x0201, 2, [rd 0x0200 0xD8]⟩ := by decide

/-- TV113: CLI (R342). -/
theorem test_tv113_cli : seen (machine 0x00 0x00 0x00 0xFF 0x24 0x0200 [(0x0200, [0x58#8])]) =
    some ⟨0x00, 0x00, 0x00, 0xFF, 0x20, 0x0201, 2, [rd 0x0200 0x58]⟩ := by decide

/-- TV114: CLV (R343). -/
theorem test_tv114_clv : seen (machine 0x00 0x00 0x00 0xFF 0x64 0x0200 [(0x0200, [0xB8#8])]) =
    some ⟨0x00, 0x00, 0x00, 0xFF, 0x24, 0x0201, 2, [rd 0x0200 0xB8]⟩ := by decide

/-- TV115: SEC (R344). -/
theorem test_tv115_sec : seen (machine 0x00 0x00 0x00 0xFF 0x24 0x0200 [(0x0200, [0x38#8])]) =
    some ⟨0x00, 0x00, 0x00, 0xFF, 0x25, 0x0201, 2, [rd 0x0200 0x38]⟩ := by decide

/-- TV116: SED (R345). -/
theorem test_tv116_sed : seen (machine 0x00 0x00 0x00 0xFF 0x24 0x0200 [(0x0200, [0xF8#8])]) =
    some ⟨0x00, 0x00, 0x00, 0xFF, 0x2C, 0x0201, 2, [rd 0x0200 0xF8]⟩ := by decide

/-- TV117: SEI (R346). -/
theorem test_tv117_sei : seen (machine 0x00 0x00 0x00 0xFF 0x20 0x0200 [(0x0200, [0x78#8])]) =
    some ⟨0x00, 0x00, 0x00, 0xFF, 0x24, 0x0201, 2, [rd 0x0200 0x78]⟩ := by decide

/-- TV118: NOP (R347). -/
theorem test_tv118_nop : seen (machine 0x12 0x34 0x56 0xFF 0xE3 0x0200 [(0x0200, [0xEA#8])]) =
    some ⟨0x12, 0x34, 0x56, 0xFF, 0xE3, 0x0201, 2, [rd 0x0200 0xEA]⟩ := by decide

/-- TV119: IRQ taken at a boundary (I=0): entry, no instruction executed (R405). -/
theorem test_tv119_irq : seen { machine 0x00 0x00 0x00 0xFF 0x20 0x0200 [(0x0200, [0xEA#8]), (0xFFFE, [0x00#8, 0x80#8])] with irqLine := true } =
    some ⟨0x00, 0x00, 0x00, 0xFC, 0x24, 0x8000, 7, [wr 0x01FF 0x02, wr 0x01FE 0x00, wr 0x01FD 0x20, rd 0xFFFE 0x00, rd 0xFFFF 0x80]⟩ := by decide

/-- TV120: IRQ masked (I=1): the NOP executes (R405). -/
theorem test_tv120_irq : seen { machine 0x00 0x00 0x00 0xFF 0x24 0x0200 [(0x0200, [0xEA#8]), (0xFFFE, [0x00#8, 0x80#8])] with irqLine := true } =
    some ⟨0x00, 0x00, 0x00, 0xFF, 0x24, 0x0201, 2, [rd 0x0200 0xEA]⟩ := by decide

/-- TV121: NMI taken with I=1 (R404). -/
theorem test_tv121_nmi : seen { machine 0x00 0x00 0x00 0xFF 0x24 0x0200 [(0x0200, [0xEA#8]), (0xFFFA, [0x00#8, 0xA0#8])] with nmiPending := true } =
    some ⟨0x00, 0x00, 0x00, 0xFC, 0x24, 0xA000, 7, [wr 0x01FF 0x02, wr 0x01FE 0x00, wr 0x01FD 0x24, rd 0xFFFA 0x00, rd 0xFFFB 0xA0]⟩ := by decide

/-- TV122: NMI and IRQ both pending: NMI first (R411). -/
theorem test_tv122_nmi : seen { machine 0x00 0x00 0x00 0xFF 0x20 0x0200 [(0x0200, [0xEA#8]), (0xFFFA, [0x00#8, 0xA0#8]), (0xFFFE, [0x00#8, 0x80#8])] with irqLine := true, nmiPending := true } =
    some ⟨0x00, 0x00, 0x00, 0xFC, 0x24, 0xA000, 7, [wr 0x01FF 0x02, wr 0x01FE 0x00, wr 0x01FD 0x20, rd 0xFFFA 0x00, rd 0xFFFB 0xA0]⟩ := by decide

/-- TV123: IRQ entry keeps D, pushes B=0 (R404). -/
theorem test_tv123_irq : seen { machine 0x00 0x00 0x00 0xFF 0xE9 0x0200 [(0x0200, [0xEA#8]), (0xFFFE, [0x00#8, 0x80#8])] with irqLine := true } =
    some ⟨0x00, 0x00, 0x00, 0xFC, 0xED, 0x8000, 7, [wr 0x01FF 0x02, wr 0x01FE 0x00, wr 0x01FD 0xE9, rd 0xFFFE 0x00, rd 0xFFFF 0x80]⟩ := by decide

/-! ### Faults, reset and the host (TV124 to TV130, TR1 to TR3, TB1 to TB4) -/

/-- The bus grants the next `k` accesses and rejects the one after them, reporting 7. -/
def rejecting (k : Nat) (s : State) : State :=
  { s with bus := { s.bus with replies := List.replicate k .memory ++ [.reject 7] } }

/-- What the vectors list of a bus fault. -/
def seenFault (o : Outcome) : Option (Word × AccessKind × BusInfo × RunState × List BusEvent) :=
  match o with
  | .fault (.busFault addr kind info t) => some (addr, kind, info, t.runState, t.bus.history.reverse)
  | _ => none

def illegalCore : State := machine 0x00 0x00 0x00 0xFF 0x20 0x0200 [(0x0200, [0x02#8])]

def illegalHalted : State :=
  { illegalCore with
    runState := .halted (.illegalOpcode 0x02#8 0x0200#16)
    bus := { illegalCore.bus with history := [rd 0x0200 0x02, .start .step] } }

/-- TV124: PC stays, the core is halted, the opcode read is the only access (R408). -/
theorem test_tv124_illegal : step illegalCore = .fault (.illegalOpcode 0x02#8 0x0200#16 illegalHalted) := rfl

/-- TV126: a step of a halted core is the same fault, with no access (R408). -/
theorem test_tv126_halted : step illegalHalted = .fault (.illegalOpcode 0x02#8 0x0200#16 illegalHalted) := rfl

/-- TV127: an NMI does not wake a halted core (R421). -/
theorem test_tv127_halted_nmi :
    step (hostNmi illegalHalted) = .fault (.illegalOpcode 0x02#8 0x0200#16 (hostNmi illegalHalted)) := rfl

/-- TV130: a step before the first reset (R409). -/
theorem test_tv130_not_reset :
    step { machine 0x00 0x00 0x00 0xFF 0x20 0x0200 [(0x0200, [0xEA#8])] with runState := .notReset } = .fault .notReset := rfl

/-- TB1: a rejected write (R407). -/
theorem test_tb1_rejected_write :
    seenFault (step (rejecting 1 (machine 0x42 0x00 0x00 0xFF 0x20 0x0200 [(0x0200, [0x48#8])]))) =
      some (0x01FF, .write, 7, .halted (.busFault 0x01FF .write 7),
        [.start .step, rd 0x0200 0x48, .rejectedWrite 0x01FF 0x42 7]) := by decide

/-- TB2: a step of the core TB1 leaves is the same fault and changes nothing. -/
theorem test_tb2_halted : ∀ t, step (rejecting 1 (machine 0x42 0x00 0x00 0xFF 0x20 0x0200 [(0x0200, [0x48#8])])) =
    .fault (.busFault 0x01FF#16 .write 7 t) → step t = .fault (.busFault 0x01FF#16 .write 7 t) := by
  intro t h
  obtain rfl := (Fault.busFault.inj (Host.Outcome.fault.inj h)).2.2.2
  rfl

/-- TB3: the operand read of INC is rejected, and nothing is written. -/
theorem test_tb3_rejected_read :
    seenFault (step (rejecting 3 (machine 0x00 0x00 0x00 0xFF 0x20 0x0200 [(0x0200, [0xEE#8, 0x00#8, 0x40#8])]))) =
      some (0x4000, .read, 7, .halted (.busFault 0x4000 .read 7),
        [.start .step, rd 0x0200 0xEE, rd 0x0201 0x00, rd 0x0202 0x40, .rejectedRead 0x4000 7]) := by decide

/-- An operand byte whose read is rejected (R113, R407). -/
theorem test_rejected_operand :
    seenFault (step (rejecting 1 (machine 0x00 0x00 0x00 0xFF 0x20 0xFFFF [(0xFFFF, [0x20#8])]))) =
      some (0x0000, .read, 7, .halted (.busFault 0x0000 .read 7),
        [.start .step, rd 0xFFFF 0x20, .rejectedRead 0x0000 7]) := by decide

/-- R72: what the bus answers is what the instruction loads, whatever the memory holds. -/
theorem test_device_answer :
    (seen (let s := machine 0x00 0x00 0x00 0xFF 0x20 0x0200 [(0x0200, [0xA5#8, 0x10#8]), (0x0010, [0x11#8])];
      { s with bus := { s.bus with replies := [.memory, .memory, .device 0x5A#8] } })).map (fun e => (e.a, e.accesses)) =
      some (0x5A, [rd 0x0200 0xA5, rd 0x0201 0x10, rd 0x0010 0x5A]) := by decide

/-- R154: valid packed BCD under valid_bcd_only gives the decimal sum. -/
theorem test_valid_bcd_only_sum :
    (match step { machine 0x12 0x00 0x00 0xFF 0x28 0x0200 [(0x0200, [0x69#8, 0x34#8])] with params := ⟨.validBcdOnly, .always⟩ } with
      | .next t => some t.a
      | _ => none) = some 0x46 := by decide

/-- What the vectors list of a completed reset. -/
def seenReset (s : State) : Option (Byte × Byte × Byte × Byte × Byte × Word × RunState × Bool × Bool) :=
  match hostReset s with
  | .next t => some (t.a, t.x, t.y, t.sp, t.status, t.pc, hostRunState t, t.nmiPending, t.irqLine)
  | _ => none

/-- TR1: reset from creation. -/
theorem test_tr1_reset :
    seenReset { State.created with bus := ⟨placed [(0xFFFC, [0x34#8, 0x12#8])], [], []⟩ } =
      some (0x00, 0x00, 0x00, 0xFF, 0x24, 0x1234, .running, false, false) := rfl

/-- TR2: reset of a halted core clears the fault and the NMI latch and keeps the IRQ line. -/
theorem test_tr2_reset :
    seenReset { illegalHalted with irqLine := true, nmiPending := true, bus := ⟨placed [(0xFFFC, [0x00#8, 0x02#8])], [], []⟩ } =
      some (0x00, 0x00, 0x00, 0xFF, 0x24, 0x0200, .running, false, true) := rfl

/-- TR3: reset writes no memory. -/
theorem test_tr3_reset : (match hostReset (machine 0x11 0x22 0x33 0x10 0xEF 0x0200 [(0x0110, [0xAB#8]), (0xFFFC, [0x00#8, 0xC0#8])]) with
    | .next t => some (t.byteAt 0x0110, t.pc, t.bus.history)
    | _ => none) = some (0xAB, 0xC000, [rd 0xFFFD 0xC0, rd 0xFFFC 0x00, .start .reset]) := by decide

/-- TB4: a rejected vector read. -/
theorem test_tb4_rejected_vector : (match hostReset (rejecting 1 State.created) with
    | .fault (.busFault addr kind info t) => some (addr, kind, info, t.a, t.x, t.y, t.sp, t.status, t.runState)
    | _ => none) =
      some (0xFFFD, .read, 7, 0x00, 0x00, 0x00, 0xFF, 0x24, .halted (.busFault 0xFFFD .read 7)) := rfl

/-- R43, R48: the host writes P with U at 1, and PC of a halted core leaves it halted. -/
theorem test_host_writes : hostRead .p (hostWrite .p 0x0000#16 State.reset) = 0x0020 ∧
    hostRunState (hostWrite .pc 0x1234#16 illegalHalted) = .halted (.illegalOpcode 0x02#8 0x0200#16) ∧
    hostRead .pc (hostWrite .pc 0x1234#16 illegalHalted) = 0x1234 := by decide

/-- R72, log 2: a byte holding what unlisted addresses read as is not listed, and addresses are listed in rising order. -/
theorem test_memory_is_canonical : placed [(0x0300, [0x01#8]), (0x0200, [0x02#8, 0x00#8]), (0x0300, [0x00#8])] = [(0x0200, 0x02#8)] ∧
    Memory.wf (placed [(0x0300, [0x01#8]), (0x0200, [0x02#8, 0x03#8])]) = true ∧
    Memory.wf [(0x0200, 0x00#8)] = false ∧ Memory.wf [(0x0201, 0x01#8), (0x0200, 0x01#8)] = false := by decide

/-- The first instruction after reset is the one placed where the core fetches. -/
theorem test_withFetchWord : (seen (State.reset.withFetchWord 24 0x12348D)).map (fun e => (e.pc, e.accesses)) =
    some (0x0003, [rd 0x0000 0x8D, rd 0x0001 0x34, rd 0x0002 0x12, wr 0x1234 0x00]) := by decide

/-! ### Witnesses: states and operands that meet the hypotheses of the obligations -/

/-- A core with the invariant, over the plain memory. -/
def core0 : State := machine 0x12 0x01 0x02 0x80 0x24 0x0200 []

/-- The same with `bytes` at PC. -/
def coreAt (bytes : List Byte) : State := machine 0x12 0x01 0x02 0x80 0x24 0x0200 [(0x0200, bytes)]

theorem witness_DecodeOfEncodeIsTheInstruction : (Instr.illegal 0xFF#8).wf = true ∧ (Instr.adcAbs 0xFFFF#16).wf = true := by decide

theorem witness_DecodedBytesAreTheEncoding :
    decode [0xAD#8, 0xFF#8, 0x12#8, 0xEA#8] = .ok (.ldaAbs 0x12FF#16, [0xEA#8]) ∧
    decode [0x00#8, 0x55#8, 0x01#8] = .ok (.brk, [0x01#8]) ∧ decode [0x00#8] = .ok (.brk, []) := ⟨rfl, rfl, rfl⟩

/-- A three-byte instruction across the end of the address space, BRK with a masked IRQ, and an illegal byte. -/
theorem witness_StepRunsTheDecodedInstruction :
    (let s := machine 0x12 0x01 0x02 0x80 0x20 0xFFFF [(0xFFFF, [0x8D#8]), (0x0000, [0x34#8, 0x12#8])];
      s.atInstruction ∧ decode s.nextBytes = .ok (.staAbs 0x1234#16, []) ∧ s.busAccepts (Instr.staAbs 0x1234#16).fetchLength = true) ∧
    (let s := { coreAt [0x00#8, 0x55#8] with irqLine := true };
      s.atInstruction ∧ decode s.nextBytes = .ok (.brk, [0x00#8]) ∧ s.busAccepts Instr.brk.fetchLength = true) ∧
    (illegalCore.atInstruction ∧ decode illegalCore.nextBytes = .ok (.illegal 0x02#8, [0x00#8, 0x00#8]) ∧
      illegalCore.busAccepts (Instr.illegal 0x02#8).fetchLength = true) :=
  ⟨⟨⟨rfl, rfl, .inl rfl⟩, rfl, rfl⟩, ⟨⟨rfl, rfl, .inr rfl⟩, rfl, rfl⟩, ⟨⟨rfl, rfl, .inl rfl⟩, rfl, rfl⟩⟩

/-- A state for each clause, and for each way a step at an instruction can end. -/
theorem witness_EventsAtABoundary :
    ({ core0 with runState := .notReset } : State).runState = .notReset ∧
    illegalHalted.runState = .halted (.illegalOpcode 0x02#8 0x0200#16) ∧
    (let s := { core0 with nmiPending := true }; s.runState = .running ∧ s.nmiPending = true) ∧
    (let s := { core0 with irqLine := true, p := 0x20#8 };
      s.runState = .running ∧ s.nmiPending = false ∧ s.irqLine = true ∧ s.flag .i = false) ∧
    ((coreAt [0xEA#8]).atInstruction ∧ ∃ t, step (coreAt [0xEA#8]) = .next t) ∧
    (illegalCore.atInstruction ∧ ∃ op addr t, step illegalCore = .fault (.illegalOpcode op addr t)) ∧
    ((rejecting 0 core0).atInstruction ∧ ∃ addr kind info t, step (rejecting 0 core0) = .fault (.busFault addr kind info t)) :=
  ⟨rfl, rfl, ⟨rfl, rfl⟩, ⟨rfl, rfl, rfl, rfl⟩, ⟨⟨rfl, rfl, .inl rfl⟩, _, rfl⟩, ⟨⟨rfl, rfl, .inl rfl⟩, _, _, _, rfl⟩,
    ⟨⟨rfl, rfl, .inl rfl⟩, _, _, _, _, rfl⟩⟩

theorem witness_InterruptEntryEffect : core0.inv = true ∧ core0.busAccepts 5 = true ∧
    (pushAccesses 3 core0 ++ [(.read, 0xFFFA#16), (.read, 0xFFFB#16)])[0]? = some (.write, 0x0180#16) ∧ (rejecting 0 core0).busRejects 0 7 ∧
    (pushAccesses 3 core0 ++ [(.read, 0xFFFA#16), (.read, 0xFFFB#16)])[4]? = some (.read, 0xFFFB#16) ∧
    (rejecting 4 core0).busRejects 4 7 := by decide

theorem witness_StepBeforeResetDoesNothing : ({ core0 with runState := .notReset } : State).runState = .notReset := rfl

theorem witness_IllegalOpcodeHaltsTheCore : illegalCore.atInstruction ∧ illegalCore.busAccepts 1 = true ∧
    illegalCore.answer 0 illegalCore.pc ∈ illegalOpcodes := by decide

theorem witness_IllegalInstructionStops : 0x02#8 ∈ illegalOpcodes ∧ 0xFF#8 ∈ illegalOpcodes ∧ 0x00#8 ∉ illegalOpcodes := by decide

/-- A rejected read, a rejected write, and the second push of JSR rejected after the first was taken. -/
theorem witness_BusFaultHaltsTheCore :
    ((rejecting 0 core0).runState = .running ∧ ∃ t, step (rejecting 0 core0) = .fault (.busFault 0x0200#16 .read 7 t)) ∧
    ((rejecting 1 (coreAt [0x48#8])).runState = .running ∧
      ∃ t, step (rejecting 1 (coreAt [0x48#8])) = .fault (.busFault 0x0180#16 .write 7 t)) ∧
    ((rejecting 4 (coreAt [0x20#8, 0x34#8, 0x12#8])).runState = .running ∧
      ∃ t e es, step (rejecting 4 (coreAt [0x20#8, 0x34#8, 0x12#8])) = .fault (.busFault 0x017F#16 .write 7 t) ∧
        t.bus.history = e :: (es ++ [.start .step]) ∧ es.reverse[3]? = some (.write 0x0180#16 0x02#8) ∧
        (rejecting 4 (coreAt [0x20#8, 0x34#8, 0x12#8])).inv = true ∧
        (rejecting 4 (coreAt [0x20#8, 0x34#8, 0x12#8])).storesAt 3 = true ∧
        (rejecting 4 (coreAt [0x20#8, 0x34#8, 0x12#8])).byteAt 0x0180#16 ≠ 0x02#8) :=
  ⟨⟨rfl, _, rfl⟩, ⟨rfl, _, rfl⟩, rfl, _, _,
    [.write 0x0180#16 0x02#8, .read 0x0202#16 0x12#8, .read 0x0201#16 0x34#8, .read 0x0200#16 0x20#8],
    rfl, rfl, rfl, rfl, rfl, by decide⟩

theorem witness_EveryLegalInstructionCompletes :
    Instr.brk.mnemonic ≠ none ∧ core0.busAccepts (ruleAccesses .brk core0).length = true := by decide

theorem witness_FirstRejectedAccessIsTheFault :
    (ruleAccesses (.incAbx 0xFFFF#16) core0)[1]? = some (.write, 0x0000#16) ∧ (rejecting 1 core0).busRejects 1 7 ∧
    ruleAccesses (.incAbx 0xFFFF#16) (rejecting 1 core0) = ruleAccesses (.incAbx 0xFFFF#16) core0 := by decide

theorem witness_AccessesOfEachStep : ∃ t, exec (.incAbx 0xFFFF#16) core0 = .next t := ⟨_, rfl⟩

theorem witness_CyclesFollowTheTable : (∃ t, exec (.staAbx 0x12FF#16) core0 = .next t) ∧ ∃ t, exec (.bcc 0x80#8) core0 = .next t :=
  ⟨⟨_, rfl⟩, _, rfl⟩

theorem witness_StepKeepsTheInvariant :
    ((coreAt [0x08#8]).inv = true ∧ ∃ t, step (coreAt [0x08#8]) = .next t) ∧
    (illegalCore.inv = true ∧ ∃ op addr t, step illegalCore = .fault (.illegalOpcode op addr t)) ∧
    ((rejecting 0 core0).inv = true ∧ ∃ addr kind info t, step (rejecting 0 core0) = .fault (.busFault addr kind info t)) :=
  ⟨⟨rfl, _, rfl⟩, ⟨rfl, _, _, _, rfl⟩, ⟨rfl, _, _, _, _, rfl⟩⟩

theorem witness_HostOperationsKeepTheInvariant : core0.inv = true ∧ (∃ t, hostReset core0 = .next t) ∧ (rejecting 1 core0).inv = true ∧
    ∃ addr kind info t, hostReset (rejecting 1 core0) = .fault (.busFault addr kind info t) := ⟨rfl, ⟨_, rfl⟩, rfl, _, _, _, _, rfl⟩

theorem witness_CompletedStepsKeepLineParametersAndBreak : ∃ t, step { coreAt [0xEA#8] with nmiPending := true } = .next t := ⟨_, rfl⟩

/-- A step that changes a byte: the push of PHA. -/
theorem witness_MemoryChangesOnlyWhereWritten : (coreAt [0x48#8]).inv = true ∧
    ∃ t, step (coreAt [0x48#8]) = .next t ∧ t.byteAt 0x0180#16 ≠ (coreAt [0x48#8]).byteAt 0x0180#16 := ⟨rfl, _, rfl, by decide⟩

theorem witness_CycleCountIsNeverRead : ∃ t, step (coreAt [0xEA#8]) = .next t := ⟨_, rfl⟩

theorem witness_StorePenaltyAffectsOnlyTheCount : ∃ t, step (coreAt [0x9D#8, 0xFF#8, 0x12#8]) = .next t := ⟨_, rfl⟩

theorem witness_WriteThenReadPlainMemory : core0.inv = true ∧ core0.plainBus := ⟨rfl, rfl⟩

theorem witness_WordReadIsTwoByteReads : (rejecting 2 core0).busAccepts 2 = true := rfl

theorem witness_PushAndPull : core0.inv = true ∧ (rejecting 1 core0).busAccepts 1 = true := ⟨rfl, rfl⟩

/-- Each memory mode at an operand where its sum or its pointer wraps. -/
theorem witness_EffectiveAddressOfEachMode : ∀ m ∈ [MemMode.zp 0xFF#8, .zpx 0xFF#8, .zpy 0xFF#8, .abs 0xFFFF#16, .abx 0xFFFF#16,
    .aby 0xFFFF#16, .izx 0xFE#8, .izy 0xFF#8], (rejecting 2 core0).busAccepts (pointerReads m) = true := by decide

theorem witness_ResetLeavesTheTabulatedState : (rejecting 2 illegalHalted).busAccepts 2 = true := rfl

theorem witness_ResetSequence : (rejecting 2 core0).busAccepts 2 = true ∧ (rejecting 0 core0).busRejects 0 7 ∧
    (rejecting 1 core0).busRejects 1 7 := by decide

theorem witness_HostAccessors : HostReg.a ≠ HostReg.p := by decide

theorem witness_UnusedReadsOne : (∃ t, hostReset core0 = .next t) ∧ (∃ t, exec .plp core0 = .next t) ∧ ∃ t, exec .rti core0 = .next t :=
  ⟨⟨_, rfl⟩, ⟨_, rfl⟩, _, rfl⟩

/-! The hypotheses of `RuleOf` and `AccessRuleOf`. -/

/-- An instruction of each mnemonic, of the legal form that makes the most accesses. -/
def sample : Mnemonic → Instr
  | .adc => .adcIzy 0xFF#8
  | .sbc => .sbcIzy 0xFF#8
  | .and => .andIzx 0xFE#8
  | .ora => .oraIzy 0xFF#8
  | .eor => .eorIzy 0xFF#8
  | .bit => .bitAbs 0xFFFF#16
  | .asl => .aslAbx 0xFFFF#16
  | .lsr => .lsrAbx 0xFFFF#16
  | .rol => .rolAbx 0xFFFF#16
  | .ror => .rorAbx 0xFFFF#16
  | .cmp => .cmpIzx 0xFE#8
  | .cpx => .cpxAbs 0xFFFF#16
  | .cpy => .cpyAbs 0xFFFF#16
  | .bcc => .bcc 0x80#8
  | .bcs => .bcs 0x80#8
  | .beq => .beq 0x80#8
  | .bne => .bne 0x80#8
  | .bmi => .bmi 0x80#8
  | .bpl => .bpl 0x80#8
  | .bvc => .bvc 0x80#8
  | .bvs => .bvs 0x80#8
  | .pha => .pha
  | .php => .php
  | .pla => .pla
  | .plp => .plp
  | .jmp => .jmpInd 0x10FF#16
  | .jsr => .jsr 0x1234#16
  | .rts => .rts
  | .brk => .brk
  | .rti => .rti
  | .tax => .tax
  | .tay => .tay
  | .txa => .txa
  | .tya => .tya
  | .tsx => .tsx
  | .txs => .txs
  | .inx => .inx
  | .iny => .iny
  | .dex => .dex
  | .dey => .dey
  | .inc => .incAbx 0xFFFF#16
  | .dec => .decAbx 0xFFFF#16
  | .lda => .ldaIzx 0xFE#8
  | .ldx => .ldxAby 0xFFFF#16
  | .ldy => .ldyAbx 0xFFFF#16
  | .sta => .staIzy 0xFF#8
  | .stx => .stxZpy 0xFF#8
  | .sty => .styZpx 0xFF#8
  | .clc => .clc
  | .cld => .cld
  | .cli => .cli
  | .clv => .clv
  | .sec => .sec
  | .sed => .sed
  | .sei => .sei
  | .nop => .nop

/-- The hypotheses of `RuleOf` for `i`, an instruction of `m`: it can complete in `s`, and a step can fetch it with a rejected read. -/
def ruleMet (m : Mnemonic) (i : Instr) (s : State) : Bool :=
  let f := rejecting 0 (coreAt (encode i))
  i.mnemonic == some m && s.inv && s.busAccepts (ruleAccesses i s).length &&
    decide f.atInstruction && (match decode f.nextBytes with | .ok (j, _) => j == i | .error _ => false) &&
    decide (0 < i.fetchLength) && decide (f.busRejects 0 7)

/-- Those of `AccessRuleOf`: its last access can also be rejected. -/
def accessRuleMet (m : Mnemonic) (i : Instr) (s : State) : Bool :=
  let last := (ruleAccesses i s).length - 1
  ruleMet m i s && ((ruleAccesses i (rejecting last s))[last]?).isSome && decide ((rejecting last s).busRejects last 7)

def accessRulesMet (ms : List Mnemonic) (s : State) : Bool := ms.all fun m => accessRuleMet m (sample m) s

theorem witness_Loads : accessRulesMet [.lda, .ldx, .ldy] core0 = true := by decide

theorem witness_StoreIndexRegisters : accessRulesMet [.stx, .sty] core0 = true ∧ (sample .stx).memMode = some (.zpy 0xFF#8) ∧
    (sample .sty).memMode = some (.zpx 0xFF#8) := by decide

theorem witness_StoreAccumulator : accessRulesMet [.sta] core0 = true ∧ (sample .sta).memMode = some (.izy 0xFF#8) := by decide

theorem witness_AddWithCarryBinary : accessRulesMet [.adc] core0 = true ∧ core0.flag .d = false := by decide

theorem witness_SubtractWithCarryBinary : accessRulesMet [.sbc] core0 = true ∧ core0.flag .d = false := by decide

/-- In decimal mode; 0x12 is packed BCD. -/
def decimal0 : State := { core0 with p := 0x2C#8 }

theorem witness_AddDecimalNmos : accessRulesMet [.adc] decimal0 = true ∧ decimal0.flag .d = true ∧ decimal0.params.decimalModel = .nmos := by
  decide

theorem witness_SubtractDecimalNmos :
    accessRulesMet [.sbc] decimal0 = true ∧ decimal0.flag .d = true ∧ decimal0.params.decimalModel = .nmos := by decide

theorem witness_DecimalResultsOfBcdOperandsAreDecimal : isBcd 0x99#8 = true ∧ isBcd 0x00#8 = true ∧
    ∀ v : Byte, (fun w : Byte => 10 * (w.toNat / 16) + w.toNat % 16) v = 10 * (v.toNat / 16) + v.toNat % 16 :=
  ⟨rfl, rfl, fun _ => rfl⟩

theorem witness_DecimalUnderValidBcdOnly :
    let s := { decimal0 with params := ⟨.validBcdOnly, .always⟩ };
    accessRulesMet [.adc, .sbc] s = true ∧ s.flag .d = true ∧ s.params.decimalModel = .validBcdOnly ∧ isBcd s.a = true ∧
      isBcd (operandByte (sample .adc) s) = true ∧ isBcd (operandByte (sample .sbc) s) = true := by decide

theorem witness_LogicalOperations : accessRulesMet [.and, .ora, .eor] core0 = true := by decide

theorem witness_BitTest : accessRulesMet [.bit] core0 = true := by decide

/-- A memory form and an Accumulator form of each. -/
theorem witness_ShiftsAndRotates : accessRulesMet [.asl, .lsr, .rol, .ror] core0 = true ∧
    (∀ m ∈ [Mnemonic.asl, .lsr, .rol, .ror], (sample m).memMode = some (.abx 0xFFFF#16)) ∧
    ruleMet .asl .aslAcc core0 = true ∧ ruleMet .lsr .lsrAcc core0 = true ∧ ruleMet .rol .rolAcc core0 = true ∧
    ruleMet .ror .rorAcc core0 = true ∧ Instr.aslAcc.memMode = none := by decide

theorem witness_Compares : accessRulesMet [.cmp, .cpx, .cpy] core0 = true := by decide

/-- Each branch, in a state where it is taken or not; the offset -128 from 0x0200 goes to another page. -/
theorem witness_Branches : (∀ m ∈ [Mnemonic.bcc, .bcs, .beq, .bne, .bmi, .bpl, .bvc, .bvs],
      ruleMet m (sample m) core0 = true ∧ (sample m).operand = .relative 0x80#8) ∧
    core0.flag .c = false ∧ core0.flag .z = false ∧ core0.flag .n = false ∧ core0.flag .v = false ∧
    branchDestination 0x80#8 core0 = 0x0180#16 ∧ branchDestination 0x7F#8 core0 = 0x027F#16 := by decide

theorem witness_AccumulatorOnTheStack : accessRulesMet [.pha, .pla] core0 = true ∧
    accessRulesMet [.pha] { core0 with sp := 0x00#8 } = true ∧ accessRulesMet [.pla] { core0 with sp := 0xFF#8 } = true := by decide

theorem witness_StatusOnTheStack : accessRulesMet [.php, .plp] core0 = true := by decide

theorem witness_PushThenPullStatus : core0.inv = true ∧ core0.plainBus := ⟨rfl, rfl⟩

theorem witness_Jumps : accessRulesMet [.jmp] core0 = true ∧ (sample .jmp).operand = .indirect 0x10FF#16 ∧
    ruleMet .jmp (.jmpAbs 0x1234#16) core0 = true ∧ (Instr.jmpAbs 0x1234#16).operand = .source (.mem (.abs 0x1234#16)) := by decide

theorem witness_SubroutineCall : accessRulesMet [.jsr] core0 = true ∧ (sample .jsr).operand = .source (.mem (.abs 0x1234#16)) := by decide

theorem witness_SubroutineReturn : accessRulesMet [.rts] core0 = true := by decide

theorem witness_CallThenReturn : core0.inv = true ∧ core0.plainBus := ⟨rfl, rfl⟩

theorem witness_BreakInstruction : accessRulesMet [.brk] core0 = true := by decide

theorem witness_ReturnFromInterrupt : accessRulesMet [.rti] core0 = true ∧ core0.plainBus := by decide

theorem witness_Transfers : ∀ m ∈ [Mnemonic.tax, .tay, .txa, .tya, .tsx, .txs], ruleMet m (sample m) core0 = true := by decide

theorem witness_RegisterIncrements : ∀ m ∈ [Mnemonic.inx, .iny, .dex, .dey], ruleMet m (sample m) core0 = true := by decide

theorem witness_MemoryIncrements : accessRulesMet [.inc, .dec] core0 = true ∧ (sample .inc).memMode = some (.abx 0xFFFF#16) ∧
    (sample .dec).memMode = some (.abx 0xFFFF#16) := by decide

theorem witness_FlagInstructions : (∀ m ∈ [Mnemonic.clc, .cld, .clv, .sec, .sed, .nop], ruleMet m (sample m) core0 = true) ∧
    0x02#8 ∈ illegalOpcodes := by decide

/-- CLI and SEI, and an asserted IRQ line before each of CLI, SEI, PLP and RTI. -/
theorem witness_InterruptMaskInstructions : (∀ m ∈ [Mnemonic.cli, .sei], ruleMet m (sample m) core0 = true) ∧
    (let s := { core0 with irqLine := true };
      s.runState = .running ∧ s.irqLine = true ∧ s.nmiPending = false ∧ s.inv = true ∧ s.busAccepts 5 = true ∧
        (∃ t, exec .cli s = .next t ∧ t.flag .i = false) ∧ (∃ t, exec .sei s = .next t ∧ t.flag .i = true ∧ ∃ u, step t = .next u) ∧
        (∃ t, exec .plp s = .next t ∧ t.flag .i = false) ∧ ∃ t, exec .rti s = .next t ∧ t.flag .i = false) :=
  ⟨by decide, rfl, rfl, rfl, rfl, rfl, ⟨_, rfl, rfl⟩, ⟨_, rfl, rfl, _, rfl⟩, ⟨_, rfl, rfl⟩, _, rfl, rfl⟩

end Sys2Proof.Tests
end

section
/-! PROOFS. The laws of single bus accesses as the scope states them (spec R13, R72, R75, R76, R81): write then read over the plain
memory, and the word read. -/

namespace Sys2Proof.Machine

/-! ### The plain-memory bus (R72) -/

theorem busAccepts_plain {s : State} (h : s.plainBus) (n : Nat) : s.busAccepts n = true := by
  simp [State.busAccepts, show s.bus.replies = [] from h]

theorem storesAt_plain {s : State} (h : s.plainBus) (k : Nat) : s.storesAt k = true := by
  simp [State.storesAt, show s.bus.replies = [] from h]

theorem plainBus_written {s : State} (h : s.plainBus) (addr : Word) (v : Byte) : (s.written addr v).plainBus := by
  rw [State.plainBus, State.written_replies, show s.bus.replies = [] from h, List.tail_nil]

/-- The invariant holds the canonical form of memory. -/
theorem State.inv_wf {s : State} (h : s.inv = true) : Memory.wf s.bus.mem = true := by
  rw [State.inv, Bool.and_eq_true] at h
  exact h.1

/-! ### What an access leaves unchanged (R81): everything but the bus -/

/-- What neither of two parts changes, the two together do not change. -/
theorem Frame.trans {regs : List Reg} {flags : List Flag} {s t u : State} (h : Frame regs flags s t) (h' : Frame regs flags t u) :
    Frame regs flags s u := by
  obtain ⟨hreg, hflag, hrun, hirq, hnmi, hparams, hfree⟩ := h
  obtain ⟨hreg', hflag', hrun', hirq', hnmi', hparams', hfree'⟩ := h'
  exact ⟨fun r hr => (hreg' r hr).trans (hreg r hr), fun f hf => (hflag' f hf).trans (hflag f hf), hrun'.trans hrun,
    hirq'.trans hirq, hnmi'.trans hnmi, hparams'.trans hparams, hfree'.trans hfree⟩

theorem frame_logAccess (e : BusEvent) (s : State) : Frame [] [] s (s.logAccess e) :=
  ⟨fun r _ => by cases r <;> rfl, fun _ _ => rfl, rfl, rfl, rfl, rfl, rfl⟩

theorem frame_written (addr : Word) (v : Byte) (s : State) : Frame [] [] s (s.written addr v) :=
  ⟨fun r _ => s.written_reg addr v r, fun f _ => s.written_flag addr v f, s.written_runState addr v, s.written_irqLine addr v,
    s.written_nmiPending addr v, s.written_params addr v, s.written_freeCount addr v⟩

theorem frame_afterReads (a b : Word) (s : State) : Frame [] [] s (s.afterReads a b) :=
  (frame_logAccess _ s).trans (frame_logAccess _ _)

/-! ### The next address (R76) -/

/-- The address after `addr`, in numbers modulo 65536. -/
theorem add_one_eq_word (addr : Word) : addr + 1 = word (addr.toNat + 1) := by
  apply BitVec.eq_of_toNat_eq
  rw [toNat_word, BitVec.toNat_add, show (1 : Word).toNat = 1 from rfl]

/-! ### The statements -/

/-- Settles O23: the write is the plain memory's, the byte is there afterwards, and the read that follows only records itself. -/
theorem writeThenReadPlainMemory : Obligations.WriteThenReadPlainMemory := by
  unfold Obligations.WriteThenReadPlainMemory
  intro s addr v hinv hplain
  have hwf := State.inv_wf hinv
  have hplain' := plainBus_written hplain addr v
  have hbyte : (s.written addr v).byteAt addr = v := by
    rw [State.written_byteAt_same s addr v hwf, storesAt_plain hplain, if_pos rfl]
  have hread := busRead_plain hplain' addr
  rw [hbyte] at hread
  refine ⟨s.written addr v, _, (Script.write addr v s).ok (busAccepts_plain hplain _), hread, fun b hb => ?_,
    (frame_written addr v s).trans (frame_logAccess _ _), ?_, ?_, plainBus_logAccess hplain' _⟩
  · rw [State.logAccess_byteAt, State.written_byteAt_ne s addr v hwf (List.ne_of_not_mem_cons hb)]
  · rw [State.logAccess_pc, State.written_pc]
  · rw [State.logAccess_history, State.written_history]

/-- Settles O24: the word read is the script of two reads, low byte first, and its value is the word of the two answers. -/
theorem wordReadIsTwoByteReads : Obligations.WordReadIsTwoByteReads := by
  unfold Obligations.WordReadIsTwoByteReads
  intro s addr haccepts
  rw [← add_one_eq_word]
  have hread := Script.readWord addr s
  exact ⟨_, _, hread.ok haccepts, toNat_mkWord _ _, hread.accessed, frame_afterReads _ _ s, rfl, fun _ _ => rfl⟩

end Sys2Proof.Machine
end

section
/-! PROOFS. What a completed step does to the event history and to the plain memory (spec R72, R79, R81). -/

namespace Sys2Proof.Machine

/-- The entries a completed step makes after its marker account for its change of memory: the marker and the NMI latch have no part
in them (R72, R79). -/
theorem accounts_of_step_next {s t : State} (h : step s = .next t) : ∃ es, Accounts es (s.beginOp .step) t := by
  obtain ⟨-, latch, -, hadv⟩ := step_next h
  obtain ⟨es, hes⟩ := hadv.history
  have hlatch : Accounts [] (s.beginOp .step) ((s.beginOp .step).setNmiPending latch) := .nil rfl
  exact ⟨es ++ [], hlatch.append hes id⟩

/-- Settles O20: the entries that account for the step, with the canonical form of memory taken from the invariant. -/
theorem memoryChangesOnlyWhereWritten : Obligations.MemoryChangesOnlyWhereWritten := by
  unfold Obligations.MemoryChangesOnlyWhereWritten
  intro s t hinv hstep
  obtain ⟨es, hes⟩ := accounts_of_step_next hstep
  exact ⟨es, hes.history, hes.accesses, hes.changed (State.inv_wf hinv)⟩

end Sys2Proof.Machine
end

section
/-! PROOFS. The opcode table splits the 256 bytes (spec R114, R117): every byte is the opcode of one row or one of the illegal bytes. -/

namespace Sys2Proof

/-! ### Sets of bytes as numbers -/

/-- The bytes of a list as a set: bit `n` of the number is set where the byte `n` is listed. -/
def byteSet (l : List Byte) : Nat := l.foldr (fun b m => 1 <<< b.toNat ||| m) 0

theorem byteSet_cons (b : Byte) (l : List Byte) : byteSet (b :: l) = 1 <<< b.toNat ||| byteSet l := rfl

theorem byteSet_append (l m : List Byte) : byteSet (l ++ m) = byteSet l ||| byteSet m := by
  induction l with
  | nil => rw [List.nil_append, show byteSet [] = 0 from rfl, Nat.zero_or]
  | cons b l ih => rw [List.cons_append, byteSet_cons, byteSet_cons, ih, Nat.or_assoc]

theorem testBit_byteSet (l : List Byte) (b : Byte) : (byteSet l).testBit b.toNat = decide (b ∈ l) := by
  induction l with
  | nil => simp [byteSet]
  | cons c l ih =>
    have hc : (1 <<< c.toNat).testBit b.toNat = decide (b = c) := by
      rw [Nat.one_shiftLeft, Nat.testBit_two_pow, decide_eq_decide, BitVec.toNat_inj, eq_comm]
    rw [byteSet_cons, Nat.testBit_or, hc, ih]
    simp

/-! ### The bytes of the table and the illegal bytes -/

theorem length_opcodeTable : opcodeTable.length = 151 := by
  simp only [opcodeTable, List.length_append]
  rfl

theorem length_illegalOpcodes : illegalOpcodes.length = 105 := rfl

/-- The bytes of the table's rows, then those that R117 lists. -/
def listedBytes : List Byte := opcodeTable.map (·.opcode) ++ illegalOpcodes

theorem length_listedBytes : listedBytes.length = 256 := by
  rw [listedBytes, List.length_append, List.length_map, length_opcodeTable, length_illegalOpcodes]

/-- As a set, the listed bytes have all of the bits 0 to 255. -/
theorem byteSet_listedBytes : byteSet listedBytes = 2 ^ 256 - 1 := by
  simp only [listedBytes, opcodeTable, illegalOpcodes, List.map_append, byteSet_append]
  decide

theorem mem_listedBytes (op : Byte) : op ∈ listedBytes := by
  have h := testBit_byteSet listedBytes op
  rw [byteSet_listedBytes, Nat.testBit_two_pow_sub_one, decide_eq_decide] at h
  exact h.mp op.isLt

/-- 256 entries that hold every byte hold each of them once. -/
theorem nodup_listedBytes : listedBytes.Nodup := by
  have hsub : List.range 256 ⊆ listedBytes.map (·.toNat) := by
    intro n hn
    exact List.mem_map.mpr ⟨BitVec.ofNat 8 n, mem_listedBytes _, Nat.mod_eq_of_lt (List.mem_range.mp hn)⟩
  have hlen : (listedBytes.map (·.toNat)).length ≤ (List.range 256).length := by
    rw [List.length_map, length_listedBytes, List.length_range]
  have hperm := (List.subperm_of_subset List.nodup_range hsub).perm_of_length_le hlen
  exact (hperm.nodup_iff.mp List.nodup_range).of_map

/-- No row is found for exactly the bytes of R117. -/
theorem lookup_eq_none_iff (op : Byte) : lookup op = none ↔ op ∈ illegalOpcodes := by
  have hrow : lookup op = none ↔ op ∉ opcodeTable.map (·.opcode) := by simp [lookup]
  have hmem := List.mem_append.mp (mem_listedBytes op)
  have hdisjoint := List.disjoint_of_nodup_append nodup_listedBytes
  rw [hrow]
  exact ⟨hmem.resolve_left, fun hillegal hlegal => hdisjoint hlegal hillegal⟩

/-- An illegal byte decodes to the instruction that carries it, whatever follows (R114). -/
theorem decode_illegal {op : Byte} (h : op ∈ illegalOpcodes) (rest : List Byte) : decode (op :: rest) = .ok (.illegal op, rest) := by
  simp only [decode, (lookup_eq_none_iff op).mpr h]

/-! ### The statements -/

/-- Settles O4: the bytes of the table and of R117 are the 256 bytes, each once. -/
theorem opcodeTableSplitsTheBytes : Obligations.OpcodeTableSplitsTheBytes := by
  unfold Obligations.OpcodeTableSplitsTheBytes
  exact ⟨length_opcodeTable, length_illegalOpcodes, List.pairwise_map.mp nodup_listedBytes.of_append_left, lookup_eq_none_iff⟩

/-- Settles O10: the bytes by the split of the table, and the fault is what `execIllegal` answers in every state. -/
theorem illegalInstructionStops : Obligations.IllegalInstructionStops := by
  unfold Obligations.IllegalInstructionStops
  refine ⟨fun op h => ⟨(lookup_eq_none_iff op).mpr h, decode_illegal h⟩, length_illegalOpcodes, fun op h => ?_, fun _ _ => rfl⟩
  exact Option.ne_none_iff_exists'.mp (mt (lookup_eq_none_iff op).mp h)

end Sys2Proof
end

section
/-! PROOFS. The encoder and the decoder are inverse to each other (spec R100, R101, R118), row by row of the opcode table. -/

namespace Sys2Proof

/-! ### From instructions to bytes and back -/

/-- The word operand of a row is decoded from its low byte and its high byte (R101). -/
theorem decode_word {op : Byte} {d : OpcodeRow} {i : Instr} (hrow : lookup op = some d) (hsize : d.mode.operandSize = .word) (w : Word)
    (rest : List Byte) (hi : d.build (loByte w) (hiByte w) = i) : decode (op :: loByte w :: hiByte w :: rest) = .ok (i, rest) := by
  simp only [decode, hrow, hsize, hi]

/-- The encoding of a well-formed instruction decodes to it, by the size of its operand: its bytes are what the decoder takes, and a word is
the word of its two bytes. -/
theorem decode_encode {i : Instr} (hwf : i.wf = true) (rest : List Byte) : decode (encode i ++ rest) = .ok (i, rest) := by
  cases i with
  | illegal op => exact decode_illegal (List.contains_iff_mem.mp hwf) rest
  | aslAcc | lsrAcc | rolAcc | rorAcc | pha | php | pla | plp | rts | brk | rti | tax | tay | txa | tya | tsx | txs | inx | iny
  | dex | dey | clc | cld | cli | clv | sec | sed | sei | nop => rfl
  | adcImm b | adcZp b | adcZpx b | adcIzx b | adcIzy b | sbcImm b | sbcZp b | sbcZpx b | sbcIzx b | sbcIzy b | andImm b
  | andZp b | andZpx b | andIzx b | andIzy b | oraImm b | oraZp b | oraZpx b | oraIzx b | oraIzy b | eorImm b | eorZp b
  | eorZpx b | eorIzx b | eorIzy b | bitZp b | aslZp b | aslZpx b | lsrZp b | lsrZpx b | rolZp b | rolZpx b | rorZp b
  | rorZpx b | cmpImm b | cmpZp b | cmpZpx b | cmpIzx b | cmpIzy b | cpxImm b | cpxZp b | cpyImm b | cpyZp b | bcc b | bcs b
  | beq b | bne b | bmi b | bpl b | bvc b | bvs b | incZp b | incZpx b | decZp b | decZpx b | ldaImm b | ldaZp b | ldaZpx b
  | ldaIzx b | ldaIzy b | ldxImm b | ldxZp b | ldxZpy b | ldyImm b | ldyZp b | ldyZpx b | staZp b | staZpx b | staIzx b
  | staIzy b | stxZp b | stxZpy b | styZp b | styZpx b => rfl
  | adcAbs w | adcAbx w | adcAby w | sbcAbs w | sbcAbx w | sbcAby w | andAbs w | andAbx w | andAby w | oraAbs w | oraAbx w
  | oraAby w | eorAbs w | eorAbx w | eorAby w | bitAbs w | aslAbs w | aslAbx w | lsrAbs w | lsrAbx w | rolAbs w | rolAbx w
  | rorAbs w | rorAbx w | cmpAbs w | cmpAbx w | cmpAby w | cpxAbs w | cpyAbs w | jmpAbs w | jmpInd w | jsr w | incAbs w
  | incAbx w | decAbs w | decAbx w | ldaAbs w | ldaAbx w | ldaAby w | ldxAbs w | ldxAby w | ldyAbs w | ldyAbx w | staAbs w
  | staAbx w | staAby w | stxAbs w | styAbs w =>
    exact decode_word rfl rfl w rest (by simp only [mkWord_bytes])

/-! ### From bytes to instructions and back -/

theorem eq_brk_of_mnemonic {i : Instr} (h : i.mnemonic = some .brk) : i = .brk := by
  cases i with
  | brk => rfl
  | _ => simp [Instr.mnemonic] at h

theorem wf_build {d : OpcodeRow} (h : d ∈ opcodeTable) (b c : Byte) : (d.build b c).wf = true := by
  obtain ⟨-, -, -, hwf⟩ := row_builds d h b c
  exact hwf

/-- The row of BRK builds BRK, whose opcode is 00 (R115, R263). -/
theorem build_brk {d : OpcodeRow} (h : d ∈ opcodeTable) (hbrk : d.mnemonic = .brk) (b c : Byte) :
    d.build b c = .brk ∧ d.opcode = 0x00#8 := by
  obtain ⟨-, hop, hmnemonic, -⟩ := row_builds d h b c
  have hi : d.build b c = .brk := eq_brk_of_mnemonic (hmnemonic.trans (congrArg some hbrk))
  exact ⟨hi, by rw [← hop, hi]; rfl⟩

/-- A row's bytes are the encoding of what the row builds from them. -/
theorem row_bytes {d : OpcodeRow} (h : d ∈ opcodeTable) {b c : Byte} {tail rest : List Byte} (ht : tail = d.operandBytes b c ++ rest) :
    d.opcode :: tail = encode (d.build b c) ++ rest := by
  rw [encode_build d h, ht, List.cons_append]

/-- All that the decoder can answer with an instruction: it is well-formed, and the bytes are its encoding, or BRK's opcode with a padding
byte of any value or none (R263). -/
theorem decode_eq_ok {bytes rest : List Byte} {i : Instr} (h : decode bytes = .ok (i, rest)) :
    i.wf = true ∧ (bytes = encode i ++ rest ∨ i = .brk ∧ ∃ tail, bytes = 0x00#8 :: tail ∧ rest = tail.drop 1) := by
  cases bytes with
  | nil => cases h
  | cons op tail =>
    cases hrow : lookup op with
    | none =>
      simp only [decode, hrow, Except.ok.injEq, Prod.mk.injEq] at h
      obtain ⟨rfl, rfl⟩ := h
      exact ⟨List.contains_iff_mem.mpr ((lookup_eq_none_iff op).mp hrow), .inl rfl⟩
    | some d =>
      obtain ⟨hmem, rfl⟩ := mem_of_lookup hrow
      simp only [decode, hrow] at h
      split at h
      next hsize =>
        obtain ⟨rfl, rfl⟩ := Prod.mk.inj (Except.ok.inj h)
        refine ⟨wf_build hmem 0 0, ?_⟩
        by_cases hbrk : d.mnemonic = .brk
        · obtain ⟨hi, hop⟩ := build_brk hmem hbrk 0 0
          exact .inr ⟨hi, _, by rw [hop], by rw [OpcodeRow.padding, if_pos hbrk]⟩
        · refine .inl (row_bytes hmem ?_)
          rw [OpcodeRow.operandBytes, hsize, padding_eq_zero hbrk]
          rfl
      next b rest hsize =>
        obtain ⟨rfl, rfl⟩ := Prod.mk.inj (Except.ok.inj h)
        exact ⟨wf_build hmem b 0, .inl (row_bytes hmem (by rw [OpcodeRow.operandBytes, hsize]; rfl))⟩
      next ll hh rest hsize =>
        obtain ⟨rfl, rfl⟩ := Prod.mk.inj (Except.ok.inj h)
        exact ⟨wf_build hmem ll hh, .inl (row_bytes hmem (by rw [OpcodeRow.operandBytes, hsize]; rfl))⟩
      all_goals cases h

/-! ### The statements -/

/-- Settles O2: the decoder answers every instruction's own row, and a word operand is the word of its two bytes. -/
theorem decodeOfEncodeIsTheInstruction : Obligations.DecodeOfEncodeIsTheInstruction := by
  unfold Obligations.DecodeOfEncodeIsTheInstruction
  exact fun i rest hwf => decode_encode hwf rest

/-- Settles O3: by `decode_eq_ok`, where the bytes of BRK are its encoding or its opcode with another padding byte or none. -/
theorem decodedBytesAreTheEncoding : Obligations.DecodedBytesAreTheEncoding := by
  unfold Obligations.DecodedBytesAreTheEncoding
  intro bytes rest i h
  obtain ⟨hwf, hbytes⟩ := decode_eq_ok h
  refine ⟨hwf, fun hne => hbytes.resolve_right fun ⟨hbrk, _⟩ => hne hbrk, ?_⟩
  rintro rfl
  rcases hbytes with rfl | ⟨-, tail, rfl, rfl⟩
  · exact .inr ⟨0x00#8, rfl⟩
  · cases tail with
    | nil => exact .inl ⟨rfl, rfl⟩
    | cons pad rest => exact .inr ⟨pad, rfl⟩

/-- Settles O1: each word but 00, which lacks its padding byte, is the encoding of its instruction, which `decode_encode` gives back. -/
theorem specWordsDecode : Obligations.SpecWordsDecode := by
  unfold Obligations.SpecWordsDecode
  have hword (i : Instr) (hwf : i.wf = true) : (decode (encode i ++ [])).toOption = some (i, []) := by
    rw [decode_encode hwf]
    rfl
  exact ⟨hword (.ldaImm 0x10#8) rfl, hword (.adcAbs 0x1234#16) rfl, hword (.ldaIzy 0x40#8) rfl, hword .aslAcc rfl,
    hword (.bne 0xFE#8) rfl, hword (.jmpInd 0x10FF#16) rfl, hword (.jsr 0x2000#16) rfl, rfl, hword .plp rfl, hword .dex rfl,
    hword .nop rfl⟩

end Sys2Proof
end

section
/-! PROOFS. The resolver and the cycle counts (spec R104 to R111, R120), from the scripts of the parts of a step. -/

namespace Sys2Proof.Machine

/-! ### What the resolver leaves unchanged (R111): everything but the bus -/

theorem length_pointerAccesses (m : MemMode) (s : State) : (pointerAccesses m s).length = pointerReads m := by cases m <;> rfl

theorem frame_afterPointer (m : MemMode) (s : State) : Frame [] [] s (s.afterPointer m) :=
  ⟨fun r _ => by cases r <;> simp [State.reg], fun f _ => s.afterPointer_flag m f, s.afterPointer_runState m, s.afterPointer_irqLine m,
    s.afterPointer_nmiPending m, s.afterPointer_params m, s.afterPointer_freeCount m⟩

/-! ### The statements -/

/-- Settles O26: the script of the resolver has the rules' address and pointer reads, and reads change nothing but the bus. -/
theorem effectiveAddressOfEachMode : Obligations.EffectiveAddressOfEachMode := by
  unfold Obligations.EffectiveAddressOfEachMode
  intro m s haccepts
  have hresolve := Script.resolve m s
  rw [← length_pointerAccesses m s] at haccepts
  exact ⟨s.afterPointer m, hresolve.ok haccepts, hresolve.accessed, frame_afterPointer m s, s.afterPointer_pc m,
    fun addr _ => s.afterPointer_byteAt m addr⟩

/-- Settles O15: of all that `exec` can answer only a completed instruction is a next state, and its count is that of R120. -/
theorem cyclesFollowTheTable : Obligations.CyclesFollowTheTable := by
  unfold Obligations.CyclesFollowTheTable
  intro i s t h
  rcases exec_cases i s with ⟨op, -, hexec⟩ | ⟨-, -, -, -, n, hcycles, hexec⟩ | ⟨k, access, info, u, -, -, -, hexec⟩
  · rw [hexec] at h; cases h
  · rw [hexec] at h
    cases h
    rw [hcycles]
    exact ⟨rfl, Option.some_ne_none n⟩
  · rw [hexec] at h; cases h

end Sys2Proof.Machine
end

section
/-! PROOFS. The rules of the mnemonics (spec R18): what every `RuleOf` says beside its result follows from the opcode table, `exec_runs` and
the script of the fetch, so that a rule is settled by the final states of its mnemonic. -/

namespace Sys2Proof

/-! ### The forms of a mnemonic (R115) -/

/-- A row without the instruction it builds, as `Encoded` lists it. -/
def OpcodeRow.form (d : OpcodeRow) : Byte × Mode × Nat × Penalty := (d.opcode, d.mode, d.baseCycles, d.penalty)

/-- The table's forms of a mnemonic. -/
def formsOf (m : Mnemonic) : List (Byte × Mode × Nat × Penalty) := (opcodeTable.filter (·.mnemonic == m)).map OpcodeRow.form

theorem mem_formsOf {m : Mnemonic} {form : Byte × Mode × Nat × Penalty} :
    form ∈ formsOf m ↔ ∃ d ∈ opcodeTable, d.mnemonic = m ∧ d.form = form := by
  simp only [formsOf, List.mem_map, List.mem_filter, beq_iff_eq, and_assoc]

/-- Every row is the one found for its byte. -/
theorem lookup_opcode {d : OpcodeRow} (h : d ∈ opcodeTable) : lookup d.opcode = some d := by
  obtain ⟨e, hrow⟩ : ∃ e, lookup d.opcode = some e := by
    rw [← Option.ne_none_iff_exists', ne_eq, lookup, List.find?_eq_none]
    exact fun hnone => hnone d h (beq_self_eq_true _)
  obtain ⟨he, hop⟩ := mem_of_lookup hrow
  rw [hrow, List.inj_on_of_nodup_map nodup_listedBytes.of_append_left he h hop]

theorem wf_of_legal {i : Instr} {m : Mnemonic} (h : i.mnemonic = some m) : i.wf = true := by
  cases i with
  | illegal op => cases h
  | _ => rfl

/-- An instruction that the decoder answers is illegal or built by a row. -/
theorem decode_built {bytes rest : List Byte} {i : Instr} (h : decode bytes = .ok (i, rest)) :
    i.mnemonic = none ∨ ∃ d ∈ opcodeTable, ∃ b c, i = d.build b c := by
  cases bytes with
  | nil => cases h
  | cons op tail =>
    cases hrow : lookup op with
    | none =>
      simp only [decode, hrow, Except.ok.injEq, Prod.mk.injEq] at h
      exact .inl (h.1 ▸ rfl)
    | some d =>
      simp only [decode, hrow] at h
      have hmem := (mem_of_lookup hrow).1
      split at h
      next => exact .inr ⟨d, hmem, _, _, (Prod.mk.inj (Except.ok.inj h)).1.symm⟩
      next => exact .inr ⟨d, hmem, _, _, (Prod.mk.inj (Except.ok.inj h)).1.symm⟩
      next => exact .inr ⟨d, hmem, _, _, (Prod.mk.inj (Except.ok.inj h)).1.symm⟩
      all_goals cases h

/-- Every legal instruction is built by a row: the decoder reads its encoding by one. -/
theorem exists_row {i : Instr} {m : Mnemonic} (h : i.mnemonic = some m) : ∃ d ∈ opcodeTable, ∃ b c, i = d.build b c :=
  (decode_built (decode_encode (wf_of_legal h) [])).resolve_left (by rw [h]; exact Option.some_ne_none m)

/-- The operand of what a row builds has the row's mode (R101, R115). -/
theorem mode_build : ∀ d ∈ opcodeTable, ∀ b c : Byte, (d.build b c).operand.mode = d.mode := by
  apply forall_opcodeTable
  all_goals
    simp only [opcodeRows0x, opcodeRows1x, opcodeRows2x, opcodeRows3x, opcodeRows4x, opcodeRows5x, opcodeRows6x, opcodeRows7x,
      opcodeRows8x, opcodeRows9x, opcodeRowsAx, opcodeRowsBx, opcodeRowsCx, opcodeRowsDx, opcodeRowsEx, opcodeRowsFx,
      List.forall_mem_cons, List.not_mem_nil, false_imp_iff, implies_true, and_true]
    repeat' apply And.intro
  all_goals exact fun _ _ => rfl

namespace Machine

/-- A list of forms is right where it is the table's in any order. -/
theorem encoded_of_perm {m : Mnemonic} {forms : List (Byte × Mode × Nat × Penalty)} (h : forms.Perm (formsOf m)) :
    Encoded m forms := by
  refine ⟨fun i hi => ?_, fun form hform => ?_⟩
  · obtain ⟨d, hd, b, c, rfl⟩ := exists_row hi
    obtain ⟨-, hop, hmnemonic, -⟩ := row_builds d hd b c
    have hm : d.mnemonic = m := Option.some.inj (hmnemonic.symm.trans hi)
    refine ⟨d.baseCycles, d.penalty, h.mem_iff.mpr (mem_formsOf.mpr ⟨d, hd, hm, ?_⟩)⟩
    rw [hop, mode_build d hd, OpcodeRow.form]
  · obtain ⟨d, hd, hm, rfl⟩ := mem_formsOf.mp (h.mem_iff.mp hform)
    exact ⟨d, lookup_opcode hd, rfl, hm, rfl, rfl, rfl⟩

/-! ### Rejected bytes of the instruction (R407) -/

theorem fetchAccesses_getElem? : ∀ {n k : Nat} (pc : Word), k < n → (fetchAccesses n pc)[k]? = some (.read, pc + BitVec.ofNat 16 k)
  | n + 1, 0, pc, _ => by simp [fetchAccesses]
  | n + 1, k + 1, pc, h => by
    rw [fetchAccesses, List.getElem?_cons_succ, fetchAccesses_getElem? (pc + 1) (Nat.lt_of_succ_lt_succ h), BitVec.add_assoc,
      BitVec.ofNat_add, BitVec.add_comm 1]
    rfl

/-- A step ends with `BusFault` at the first of the bytes of its instruction that the bus rejects (R113, R407). -/
theorem step_fetch_rejected {i : Instr} {rest : List Byte} {s : State} {k : Nat} {info : BusInfo} (hs : s.atInstruction)
    (hd : decode s.nextBytes = .ok (i, rest)) (hk : k < i.fetchLength) (hr : s.busRejects k info) :
    ∃ t, step s = .fault (.busFault (s.pc + BitVec.ofNat 16 k) .read info t) := by
  obtain ⟨hrun, hnmi, hirq⟩ := hs
  obtain ⟨u, hu, -⟩ := (Script.fetchInstr (s := s.beginOp .step) hd).rejected k _ info (fetchAccesses_getElem? s.pc hk) hr
  refine ⟨u.haltUnspecified (.busFault (s.pc + BitVec.ofNat 16 k) .read info), ?_⟩
  simp only [step, boundary_instruction hrun hnmi hirq, hu, Res.finish_busFault]

/-! ### Rules -/

variable {m : Mnemonic} {forms : List (Byte × Mode × Nat × Penalty)} {result : Instr → State → State → Prop}

/-- A rule of a mnemonic holds where its forms are the table's and its result describes the final state of each of its instructions. -/
theorem ruleOf_of_finalState (hforms : forms.Perm (formsOf m))
    (hresult : ∀ i s n, i.mnemonic = some m → s.inv = true → result i s ((finalState i s).setLastCycles (some n))) :
    RuleOf m forms result := by
  refine ⟨encoded_of_perm hforms, fun i s hm hinv haccepts => ?_, fun i rest s k info _ => step_fetch_rejected⟩
  obtain ⟨n, r, hexec, hscript, hcycles⟩ := exec_runs i s (by simp [hm])
  exact ⟨_, by rw [hexec, hscript.finish_ok haccepts], hresult i s n hm hinv, hscript.accessed, hcycles.symm⟩

/-- The same with the accesses after the fetch, the first rejected of which is the instruction's bus fault. -/
theorem accessRuleOf_of_finalState (hforms : forms.Perm (formsOf m))
    (hresult : ∀ i s n, i.mnemonic = some m → s.inv = true → result i s ((finalState i s).setLastCycles (some n))) :
    AccessRuleOf m forms result := by
  refine ⟨ruleOf_of_finalState hforms hresult, fun i s k access info hm haccess hreject => ?_⟩
  obtain ⟨n, r, hexec, hscript, -⟩ := exec_runs i s (by simp [hm])
  obtain ⟨u, hu, -⟩ := hscript.rejected k access info haccess hreject
  exact ⟨_, by rw [hexec, hu, Res.finish_busFault]⟩

end Machine

end Sys2Proof
end

section
/-! PROOFS. ADC and SBC in binary mode (spec R150, R152, R155). -/

namespace Sys2Proof.Machine

/-! ### The results in numbers -/

theorem carryNat_le_one (c : Bool) : carryNat c ≤ 1 := by cases c <;> decide

/-- V by the sign bits (R150: two operands of one sign, the result of the other) says that the signed sum is no 8-bit number. -/
theorem addBinary_v (a m : Byte) (c : Bool) :
    (addBinary a m c).v = decide (a.toInt + m.toInt + carryNat c < -128 ∨ a.toInt + m.toInt + carryNat c > 127) := by
  have hc := carryNat_le_one c
  have ha := a.isLt
  have hm := m.isLt
  have hsigns : (addBinary a m c).v = true ↔
      (128 ≤ a.toNat ↔ 128 ≤ m.toNat) ∧ ¬(128 ≤ a.toNat ↔ 128 ≤ (a.toNat + m.toNat + carryNat c) % 256) := by
    simp only [addBinary, BitVec.msb_and, BitVec.msb_not, BitVec.msb_xor]
    simp [BitVec.msb_eq_toNat]
  rw [Bool.eq_iff_iff, decide_eq_true_iff, hsigns, BitVec.toInt_eq_toNat_cond, BitVec.toInt_eq_toNat_cond]
  split <;> split <;> omega

/-- SBC adds the complement of M (R152). -/
theorem subBinary_eq_addBinary (a m : Byte) (c : Bool) : subBinary a m c = addBinary a (~~~m) c := by
  have hcompl : m ^^^ 0xFF#8 = ~~~m := BitVec.xor_allOnes
  have hsigns : ~~~(a ^^^ ~~~m) = a ^^^ m := by rw [BitVec.not_xor_right, BitVec.not_not]
  simp only [subBinary, addBinary, hcompl, hsigns]

/-- The sum with the complement is the difference plus 256, whose ninth bit says that nothing was borrowed. -/
theorem sum_not (a m : Byte) (c : Bool) :
    ((a.toNat + (~~~m).toNat + carryNat c : Nat) : Int) = (a.toNat : Int) - m.toNat - (1 - carryNat c) + 256 := by
  have hm := m.isLt
  rw [BitVec.toNat_not]
  omega

theorem subBinary_value (a m : Byte) (c : Bool) :
    (subBinary a m c).value = BitVec.ofInt 8 ((a.toNat : Int) - m.toNat - (1 - carryNat c)) := by
  rw [subBinary_eq_addBinary, eq_sub_of_add_eq (sum_not a m c).symm, Int.sub_eq_add_neg, BitVec.ofInt_add, BitVec.ofInt_natCast]
  exact (BitVec.add_zero _).symm

theorem subBinary_c (a m : Byte) (c : Bool) :
    (subBinary a m c).c = decide ((a.toNat : Int) - m.toNat - (1 - carryNat c) ≥ 0) := by
  have hsum := sum_not a m c
  rw [subBinary_eq_addBinary]
  exact decide_eq_decide.mpr (by omega)

theorem toInt_not_byte (m : Byte) : (~~~m).toInt = -m.toInt - 1 := by
  have hm := m.isLt
  rw [BitVec.toInt_eq_toNat_cond, BitVec.toInt_eq_toNat_cond, BitVec.toNat_not]
  split <;> split <;> omega

theorem subBinary_v (a m : Byte) (c : Bool) :
    (subBinary a m c).v =
      decide (a.toInt - m.toInt - (1 - carryNat c) < -128 ∨ a.toInt - m.toInt - (1 - carryNat c) > 127) := by
  have hsum : a.toInt + (~~~m).toInt + carryNat c = a.toInt - m.toInt - (1 - carryNat c) := by
    rw [toInt_not_byte]
    omega
  rw [subBinary_eq_addBinary, addBinary_v, hsum]

/-! ### What a result of ADC or SBC leaves unchanged, and Z and N -/

theorem frame_afterOperand (i : Instr) (s : State) : Frame [] [] s (s.afterOperand i) :=
  ⟨fun r _ => by cases r <;> simp [State.reg], fun f _ => s.afterOperand_flag i f, s.afterOperand_runState i, s.afterOperand_irqLine i,
    s.afterOperand_nmiPending i, s.afterOperand_params i, s.afterOperand_freeCount i⟩

theorem sameMemory_afterOperand (i : Instr) (s : State) : SameMemoryBut [] s (s.afterOperand i) :=
  fun addr _ => s.afterOperand_byteAt i addr

/-- What changes nothing changes only what is listed. -/
theorem Frame.of_empty {s t : State} (h : Frame [] [] s t) (regs : List Reg) (flags : List Flag) : Frame regs flags s t := by
  obtain ⟨hreg, hflag, hrest⟩ := h
  exact ⟨fun r _ => hreg r List.not_mem_nil, fun f _ => hflag f List.not_mem_nil, hrest⟩

theorem frame_setAluResult (r : AluResult) (s : State) : Frame [.a] [.c, .z, .v, .n] s (s.setAluResult r) := by
  refine ⟨fun g hg => ?_, fun f hf => ?_, rfl, rfl, rfl, rfl, rfl⟩
  · cases g with
    | a => exact absurd (List.mem_singleton.mpr rfl) hg
    | x | y | sp => rfl
  · simp only [List.mem_cons, List.not_mem_nil, or_false, not_or] at hf
    obtain ⟨hc, hz, hv, hn⟩ := hf
    rw [State.flag_setAluResult, if_neg hn, if_neg hz, if_neg hv, if_neg hc]

/-- The state an instruction leaves that reads its operand and puts `r` in A and C, Z, V, N: nothing else changes. -/
theorem aluResult_frame (i : Instr) (r : AluResult) (s : State) (n : Option Nat) :
    Frame [.a] [.c, .z, .v, .n] s (((s.afterOperand i).setAluResult r).setLastCycles n) ∧
      (((s.afterOperand i).setAluResult r).setLastCycles n).pc = s.pc ∧
      SameMemoryBut [] s (((s.afterOperand i).setAluResult r).setLastCycles n) :=
  ⟨frame_setLastCycles.mpr (((frame_afterOperand i s).of_empty _ _).trans (frame_setAluResult r _)), s.afterOperand_pc i,
    sameMemoryBut_setLastCycles.mpr (sameMemory_afterOperand i s)⟩

/-- Z and N of the state are those of A where the result's are those of its value. -/
theorem nzOf_setAluResult {r : AluResult} (hz : r.z = (r.value == 0)) (hn : r.n = r.value.msb) (s : State) (n : Option Nat) :
    NZOf ((s.setAluResult r).setLastCycles n).a ((s.setAluResult r).setLastCycles n) := by
  rw [State.setLastCycles_a, State.setAluResult_a]
  exact ⟨by simp [State.flag_setAluResult, hz], by simp [State.flag_setAluResult, hn, BitVec.msb_eq_getLsbD_last]⟩

/-! ### The statements -/

theorem finalState_adc_binary {i : Instr} {s : State} (hi : i.mnemonic = some .adc) (hd : s.flag .d = false) :
    finalState i s = (s.afterOperand i).setAluResult (addBinary s.a (operandByte i s) (s.flag .c)) := by
  simp [finalState, hi, adcEffect, hd]

theorem finalState_sbc_binary {i : Instr} {s : State} (hi : i.mnemonic = some .sbc) (hd : s.flag .d = false) :
    finalState i s = (s.afterOperand i).setAluResult (subBinary s.a (operandByte i s) (s.flag .c)) := by
  simp [finalState, hi, sbcEffect, hd]

/-- Settles O35: A and C are the binary sum by definition, V is `addBinary_v`. -/
theorem addWithCarryBinary : Obligations.AddWithCarryBinary := by
  unfold Obligations.AddWithCarryBinary
  refine accessRuleOf_of_finalState (by decide) fun i s n hi _ hd => ?_
  rw [finalState_adc_binary hi hd]
  refine ⟨?_, ?_, nzOf_setAluResult rfl rfl _ _, aluResult_frame _ _ _ _⟩
  · rintro _ rfl
    exact ⟨rfl, by simp [State.flag_setAluResult, addBinary]⟩
  · rintro _ rfl
    rw [← addBinary_v]
    simp [State.flag_setAluResult]

/-- Settles O36: A, C and V are those of the sum with the complement, which is the difference plus 256. -/
theorem subtractWithCarryBinary : Obligations.SubtractWithCarryBinary := by
  unfold Obligations.SubtractWithCarryBinary
  refine accessRuleOf_of_finalState (by decide) fun i s n hi _ hd => ?_
  rw [finalState_sbc_binary hi hd]
  refine ⟨?_, ?_, nzOf_setAluResult rfl rfl _ _, aluResult_frame _ _ _ _⟩
  · rintro _ rfl
    rw [← subBinary_value, ← subBinary_c]
    exact ⟨rfl, by simp [State.flag_setAluResult]⟩
  · rintro _ rfl
    rw [← subBinary_v]
    simp [State.flag_setAluResult]

end Sys2Proof.Machine
end

section
/-! PROOFS. AND, ORA, EOR, BIT and the shifts and rotates (spec R171 to R178). -/

namespace Sys2Proof.Machine

/-! ### What the writes of A and of a flag leave unchanged (R12, R15) -/

section
variable {regs : List Reg} {flags : List Flag}

theorem frame_setA (ha : .a ∈ regs) (v : Byte) (s : State) : Frame regs flags s (s.setA v) := by
  refine ⟨fun r hr => ?_, fun _ _ => rfl, rfl, rfl, rfl, rfl, rfl⟩
  cases r with
  | a => exact absurd ha hr
  | x | y | sp => rfl

theorem frame_setFlag {f : Flag} (hf : f ∈ flags) (on : Bool) (s : State) : Frame regs flags s (s.setFlag f on) :=
  ⟨fun r _ => by cases r <;> rfl, fun _ hg => s.flag_setFlag_ne (ne_of_mem_of_not_mem hf hg).symm on, rfl, rfl, rfl, rfl, rfl⟩

theorem frame_setNZ (hz : .z ∈ flags) (hn : .n ∈ flags) (v : Byte) (s : State) : Frame regs flags s (s.setNZ v) :=
  (frame_setFlag hz _ s).trans (frame_setFlag hn _ _)

end

theorem nzOf_setNZ (v : Byte) (s : State) (n : Option Nat) : NZOf v ((s.setNZ v).setLastCycles n) :=
  ⟨by simp [State.flag_setNZ], by simp [State.flag_setNZ, BitVec.msb_eq_getLsbD_last]⟩

/-! ### Operand to A (R171 to R173) -/

/-- The state an instruction leaves that reads its operand and puts `r` in A with its Z and N. -/
theorem accumulatorResult (i : Instr) (r : Byte) (s : State) (n : Option Nat) :
    ∀ t, t = (((s.afterOperand i).setA r).setNZ r).setLastCycles n →
      t.a = r ∧ NZOf t.a t ∧ Frame [.a] [.z, .n] s t ∧ t.pc = s.pc ∧ SameMemoryBut [] s t := by
  rintro _ rfl
  have hframe : Frame [.a] [.z, .n] s (((s.afterOperand i).setA r).setNZ r) :=
    (((frame_afterOperand i s).of_empty _ _).trans (frame_setA (by decide) r _)).trans (frame_setNZ (by decide) (by decide) r _)
  exact ⟨rfl, nzOf_setNZ r _ n, frame_setLastCycles.mpr hframe, s.afterOperand_pc i,
    sameMemoryBut_setLastCycles.mpr (sameMemory_afterOperand i s)⟩

theorem finalState_and {i : Instr} (hi : i.mnemonic = some .and) (s : State) :
    finalState i s = ((s.afterOperand i).setA (s.a &&& operandByte i s)).setNZ (s.a &&& operandByte i s) := by
  simp only [finalState, hi, andEffect, State.afterOperand_a]

theorem finalState_ora {i : Instr} (hi : i.mnemonic = some .ora) (s : State) :
    finalState i s = ((s.afterOperand i).setA (s.a ||| operandByte i s)).setNZ (s.a ||| operandByte i s) := by
  simp only [finalState, hi, oraEffect, State.afterOperand_a]

theorem finalState_eor {i : Instr} (hi : i.mnemonic = some .eor) (s : State) :
    finalState i s = ((s.afterOperand i).setA (s.a ^^^ operandByte i s)).setNZ (s.a ^^^ operandByte i s) := by
  simp only [finalState, hi, eorEffect, State.afterOperand_a]

/-! ### BIT (R174) -/

theorem finalState_bit {i : Instr} (hi : i.mnemonic = some .bit) (s : State) :
    finalState i s = bitEffect (operandByte i s) (s.afterOperand i) := by
  simp only [finalState, hi]

theorem flag_bitEffect (m : Byte) (s : State) (f : Flag) :
    (bitEffect m s).flag f =
      if f = .v then m.getLsbD 6 else if f = .n then m.msb else if f = .z then (s.a &&& m) == 0 else s.flag f := by
  cases f <;> simp [bitEffect, State.flag_setFlag]

@[simp] theorem bitEffect_pc (m : Byte) (s : State) : (bitEffect m s).pc = s.pc := rfl

@[simp] theorem bitEffect_byteAt (m : Byte) (s : State) (addr : Word) : (bitEffect m s).byteAt addr = s.byteAt addr := rfl

theorem frame_bitEffect (m : Byte) (s : State) : Frame [] [.z, .n, .v] s (bitEffect m s) :=
  ((frame_setFlag (by decide) _ s).trans (frame_setFlag (by decide) _ _)).trans (frame_setFlag (by decide) _ _)

/-! ### The results of shifts and rotates, in numbers (R175 to R178) -/

theorem aslValue_eq (v : Byte) (c : Bool) : aslValue v c = BitVec.ofNat 8 (2 * v.toNat) := by
  apply BitVec.eq_of_toNat_eq
  simp [aslValue, Nat.shiftLeft_eq, Nat.mul_comm]

theorem lsrValue_eq (v : Byte) (c : Bool) : lsrValue v c = BitVec.ofNat 8 (v.toNat / 2) := by
  have hv := v.isLt
  apply BitVec.eq_of_toNat_eq
  rw [lsrValue, BitVec.toNat_ushiftRight, Nat.shiftRight_eq_div_pow, BitVec.toNat_ofNat, Nat.mod_eq_of_lt (by omega)]

/-- Setting a clear bit adds it. -/
theorem or_twoPow_eq_add {v : Byte} {k : Nat} (h : v.getLsbD k = false) : v ||| BitVec.twoPow 8 k = v + BitVec.twoPow 8 k :=
  (BitVec.add_eq_or_of_and_eq_zero _ _ (by rw [BitVec.and_twoPow, h, if_neg Bool.false_ne_true])).symm

/-- Bit 0 is free after the shift, so that setting it adds C. -/
theorem rolValue_eq (v : Byte) (c : Bool) : rolValue v c = BitVec.ofNat 8 (2 * v.toNat + carryNat c) := by
  have hasl : v <<< 1 = BitVec.ofNat 8 (2 * v.toNat) := aslValue_eq v c
  have hfree : (v <<< 1).getLsbD 0 = false := by simp
  rw [BitVec.ofNat_add, ← hasl]
  cases c with
  | false => exact BitVec.or_zero.trans (BitVec.add_zero _).symm
  | true => exact or_twoPow_eq_add hfree

/-- Bit 7 is free after the shift, so that setting it adds 128 C. -/
theorem rorValue_eq (v : Byte) (c : Bool) : rorValue v c = BitVec.ofNat 8 (v.toNat / 2 + 128 * carryNat c) := by
  have hlsr : v >>> 1 = BitVec.ofNat 8 (v.toNat / 2) := lsrValue_eq v c
  have hfree : (v >>> 1).getLsbD 7 = false := by simp
  rw [BitVec.ofNat_add, ← hlsr]
  cases c with
  | false => exact BitVec.or_zero.trans (BitVec.add_zero _).symm
  | true => exact or_twoPow_eq_add hfree

/-! ### The read-modify-write state (R170) -/

theorem modified_accumulator {i : Instr} (hm : i.memMode = none) (r : Byte) (s : State) : s.modified i r = s.setA r := by
  rw [State.modified, hm]

theorem modified_memory {i : Instr} {m : MemMode} (hm : i.memMode = some m) (r : Byte) (s : State) :
    s.modified i r = ((s.afterPointer m).afterRead (effectiveAddress m s)).written (effectiveAddress m s) r := by
  rw [State.modified, hm]

theorem modified_pc (i : Instr) (r : Byte) (s : State) : (s.modified i r).pc = s.pc := by
  cases hm : i.memMode with
  | none => rw [modified_accumulator hm, State.setA_pc]
  | some m => rw [modified_memory hm, State.written_pc, State.logAccess_pc, State.afterPointer_pc]

theorem frame_modified_memory {i : Instr} {m : MemMode} (hm : i.memMode = some m) (r : Byte) (s : State) :
    Frame [] [] s (s.modified i r) := by
  rw [modified_memory hm]
  exact ((frame_afterPointer m s).trans (frame_logAccess _ _)).trans (frame_written _ r _)

/-- The flags of a shift: C the bit shifted out, Z and N of the result; nothing else changes. -/
theorem frame_shiftFlags {regs : List Reg} (c : Bool) (r : Byte) (s : State) :
    Frame regs [.c, .z, .n] s ((s.setFlag .c c).setNZ r) :=
  (frame_setFlag (by decide) c s).trans (frame_setNZ (by decide) (by decide) r _)

theorem shiftFlags_byteAt (c : Bool) (r : Byte) (s : State) (addr : Word) :
    ((s.setFlag .c c).setNZ r).byteAt addr = s.byteAt addr := rfl

/-- The state a shift or rotate leaves whose result is `r` and which shifts `c` out. -/
theorem shiftResult {i : Instr} {s : State} (hinv : s.inv = true) (c : Bool) (r : Byte) (n : Option Nat) :
    ∀ t, t = (((s.modified i r).setFlag .c c).setNZ r).setLastCycles n →
      t.flag .c = c ∧ NZOf r t ∧ t.pc = s.pc ∧
      (i.memMode = none → t.a = r ∧ Frame [.a] [.c, .z, .n] s t ∧ SameMemoryBut [] s t) ∧
      ∀ m, i.memMode = some m → Frame [] [.c, .z, .n] s t ∧ SameMemoryBut [effectiveAddress m s] s t ∧
        Stored (pointerReads m + 1) (effectiveAddress m s) r s t := by
  rintro _ rfl
  refine ⟨by simp [State.flag_setNZ], nzOf_setNZ r _ n, by simp [modified_pc], fun hm => ?_, fun m hm => ?_⟩
  · rw [modified_accumulator hm]
    exact ⟨rfl, frame_setLastCycles.mpr ((frame_setA (by decide) r s).trans (frame_shiftFlags c r _)), fun _ _ => rfl⟩
  · have hframe := ((frame_modified_memory hm r s).of_empty [] _).trans (frame_shiftFlags c r _)
    obtain ⟨hstored, hsame⟩ := stored_modified m r (State.inv_wf hinv)
    rw [← modified_memory hm] at hstored hsame
    exact ⟨frame_setLastCycles.mpr hframe, sameMemoryBut_setLastCycles.mpr (hsame.congr (shiftFlags_byteAt c r _)),
      stored_setLastCycles.mpr (hstored.congr (shiftFlags_byteAt c r _ _))⟩

theorem leftFlags_eq (v r : Byte) (s : State) : leftFlags v r s = (s.setFlag .c (v.getLsbD 7)).setNZ r := by
  rw [leftFlags, carryLeft, BitVec.msb_eq_getLsbD_last]

theorem rightFlags_eq (v r : Byte) (s : State) : rightFlags v r s = (s.setFlag .c (v.getLsbD 0)).setNZ r := rfl

theorem finalState_asl {i : Instr} {s : State} {r : Byte} (hi : i.mnemonic = some .asl)
    (hr : r = BitVec.ofNat 8 (2 * (operandByte i s).toNat)) :
    finalState i s = ((s.modified i r).setFlag .c ((operandByte i s).getLsbD 7)).setNZ r := by
  simp only [finalState, hi, hr, aslValue_eq, leftFlags_eq]

theorem finalState_lsr {i : Instr} {s : State} {r : Byte} (hi : i.mnemonic = some .lsr)
    (hr : r = BitVec.ofNat 8 ((operandByte i s).toNat / 2)) :
    finalState i s = ((s.modified i r).setFlag .c ((operandByte i s).getLsbD 0)).setNZ r := by
  simp only [finalState, hi, hr, lsrValue_eq, rightFlags_eq]

theorem finalState_rol {i : Instr} {s : State} {r : Byte} (hi : i.mnemonic = some .rol)
    (hr : r = BitVec.ofNat 8 (2 * (operandByte i s).toNat + carryNat (s.flag .c))) :
    finalState i s = ((s.modified i r).setFlag .c ((operandByte i s).getLsbD 7)).setNZ r := by
  simp only [finalState, hi, hr, rolValue_eq, leftFlags_eq]

theorem finalState_ror {i : Instr} {s : State} {r : Byte} (hi : i.mnemonic = some .ror)
    (hr : r = BitVec.ofNat 8 ((operandByte i s).toNat / 2 + 128 * carryNat (s.flag .c))) :
    finalState i s = ((s.modified i r).setFlag .c ((operandByte i s).getLsbD 0)).setNZ r := by
  simp only [finalState, hi, hr, rorValue_eq, rightFlags_eq]

/-! ### The statements -/

/-- Settles O41: each operation leaves its operand's combination with A in A, with its Z and N (`accumulatorResult`). -/
theorem logicalOperations : Obligations.LogicalOperations := by
  unfold Obligations.LogicalOperations
  refine ⟨?_, ?_, ?_⟩
  · refine accessRuleOf_of_finalState (by decide) fun i s n hi _ => accumulatorResult i _ s n _ ?_
    rw [finalState_and hi]
  · refine accessRuleOf_of_finalState (by decide) fun i s n hi _ => accumulatorResult i _ s n _ ?_
    rw [finalState_ora hi]
  · refine accessRuleOf_of_finalState (by decide) fun i s n hi _ => accumulatorResult i _ s n _ ?_
    rw [finalState_eor hi]

/-- Settles O42: `flag_bitEffect` says the three flags, and neither the reads nor the flag writes change anything else. -/
theorem bitTest : Obligations.BitTest := by
  unfold Obligations.BitTest
  refine accessRuleOf_of_finalState (by decide) fun i s n hi _ => ?_
  rw [finalState_bit hi]
  have hframe := ((frame_afterOperand i s).of_empty _ _).trans (frame_bitEffect (operandByte i s) _)
  refine ⟨?_, ?_, ?_, frame_setLastCycles.mpr hframe, by simp, fun addr _ => by simp⟩
  · simp [flag_bitEffect]
  · simp [flag_bitEffect, BitVec.msb_eq_getLsbD_last]
  · simp [flag_bitEffect]

/-- Settles O43: each result is its number (`aslValue_eq` and so on), and what it does to the state is `shiftResult`. -/
theorem shiftsAndRotates : Obligations.ShiftsAndRotates := by
  unfold Obligations.ShiftsAndRotates
  refine ⟨?_, ?_, ?_, ?_⟩
  · refine accessRuleOf_of_finalState (by decide) fun i s n hi hinv r hr => shiftResult hinv _ r (some n) _ ?_
    rw [finalState_asl hi hr]
  · refine accessRuleOf_of_finalState (by decide) fun i s n hi hinv r hr => shiftResult hinv _ r (some n) _ ?_
    rw [finalState_lsr hi hr]
  · refine accessRuleOf_of_finalState (by decide) fun i s n hi hinv r hr => shiftResult hinv _ r (some n) _ ?_
    rw [finalState_rol hi hr]
  · refine accessRuleOf_of_finalState (by decide) fun i s n hi hinv r hr => shiftResult hinv _ r (some n) _ ?_
    rw [finalState_ror hi hr]

end Sys2Proof.Machine
end

section
/-! PROOFS. CMP, CPX and CPY (spec R200 to R203). -/

namespace Sys2Proof.Machine

/-! ### What a compare does to the state (R200) -/

/-- Z is that of the difference, so that it says that the two bytes are equal. -/
theorem flag_compare_z_iff (r m : Byte) (s : State) : (s.compare r m).flag .z = true ↔ r = m := by
  have hzero : r - m = 0 ↔ r = m := sub_eq_zero
  simpa [State.flag_compare] using hzero

theorem frame_compare (r m : Byte) (s : State) : Frame [] [.c, .z, .n] s (s.compare r m) :=
  frame_shiftFlags _ (r - m) s

/-- The state an instruction leaves that reads its operand and compares `r` with it. -/
theorem compareResult (i : Instr) (r : Byte) (s : State) (n : Option Nat) :
    ∀ t, t = ((s.afterOperand i).compare r (operandByte i s)).setLastCycles n →
      t.flag .c = decide ((operandByte i s).toNat ≤ r.toNat) ∧ NZOf (r - operandByte i s) t ∧
      (t.flag .z = true ↔ r = operandByte i s) ∧ Frame [] [.c, .z, .n] s t ∧ t.pc = s.pc ∧ SameMemoryBut [] s t := by
  rintro _ rfl
  have hframe := ((frame_afterOperand i s).of_empty [] _).trans (frame_compare r (operandByte i s) _)
  refine ⟨?_, nzOf_setNZ _ _ n, ?_, frame_setLastCycles.mpr hframe, by simp, fun addr _ => by simp⟩
  · simp [State.flag_compare]
  · simpa using flag_compare_z_iff r (operandByte i s) (s.afterOperand i)

theorem finalState_cmp {i : Instr} (hi : i.mnemonic = some .cmp) (s : State) :
    finalState i s = (s.afterOperand i).compare s.a (operandByte i s) := by
  simp only [finalState, hi, cmpEffect, State.afterOperand_a]

theorem finalState_cpx {i : Instr} (hi : i.mnemonic = some .cpx) (s : State) :
    finalState i s = (s.afterOperand i).compare s.x (operandByte i s) := by
  simp only [finalState, hi, cpxEffect, State.afterOperand_x]

theorem finalState_cpy {i : Instr} (hi : i.mnemonic = some .cpy) (s : State) :
    finalState i s = (s.afterOperand i).compare s.y (operandByte i s) := by
  simp only [finalState, hi, cpyEffect, State.afterOperand_y]

/-! ### The statement -/

/-- Settles O44: each compares its register, as it stands before the operand is read, with the operand (`compareResult`). -/
theorem compares : Obligations.Compares := by
  unfold Obligations.Compares
  refine ⟨?_, ?_, ?_⟩
  · refine accessRuleOf_of_finalState (by decide) fun i s n hi _ => compareResult i _ s n _ ?_
    rw [finalState_cmp hi]
  · refine accessRuleOf_of_finalState (by decide) fun i s n hi _ => compareResult i _ s n _ ?_
    rw [finalState_cpx hi]
  · refine accessRuleOf_of_finalState (by decide) fun i s n hi _ => compareResult i _ s n _ ?_
    rw [finalState_cpy hi]

end Sys2Proof.Machine
end

section
/-! PROOFS. The branches (spec R220 to R228). -/

namespace Sys2Proof.Machine

/-! ### The flag a branch looks at (R221 to R228) -/

/-- The flag that decides a branch and the value with which it is taken; none for any other mnemonic. -/
def branchCondition : Mnemonic → Option (Flag × Bool)
  | .bcc => some (.c, false)
  | .bcs => some (.c, true)
  | .beq => some (.z, true)
  | .bne => some (.z, false)
  | .bmi => some (.n, true)
  | .bpl => some (.n, false)
  | .bvc => some (.v, false)
  | .bvs => some (.v, true)
  | _ => none

variable {m : Mnemonic} {f : Flag} {v : Bool} {i : Instr}

theorem finalState_branch (hm : branchCondition m = some (f, v)) (hi : i.mnemonic = some m) (s : State) :
    finalState i s = s.branched i := by
  unfold branchCondition at hm
  split at hm
  case h_9 => cases hm
  all_goals simp only [finalState, hi]

theorem branchTaken_iff (hm : branchCondition m = some (f, v)) (hi : i.mnemonic = some m) (s : State) :
    branchTaken i s = true ↔ s.flag f = v := by
  unfold branchCondition at hm
  split at hm
  case h_9 => cases hm
  all_goals
    cases hm
    simp only [branchTaken, hi, Bool.not_eq_true']

/-! ### What a branch does to the state (R220) -/

theorem frame_setPc (w : Word) (s : State) : Frame [] [] s (s.setPc w) :=
  ⟨fun r _ => by cases r <;> rfl, fun _ _ => rfl, rfl, rfl, rfl, rfl, rfl⟩

/-- A branch writes PC alone: one that is not taken leaves it as it is. -/
theorem branched_eq_setPc {oo : Byte} (ho : i.operand = .relative oo) (s : State) :
    s.branched i = s.setPc (if branchTaken i s then branchDestination oo s else s.pc) := by
  simp only [State.branched, ho]
  split
  · rfl
  · rfl

/-- The rule of a branch on the flag `f`, taken where it has the value `v`. -/
theorem ruleOf_branch {forms : List (Byte × Mode × Nat × Penalty)} (hm : branchCondition m = some (f, v))
    (hforms : forms.Perm (formsOf m)) :
    RuleOf m forms (fun i s t => ∀ oo, i.operand = .relative oo →
      t.pc = (if s.flag f = v then branchDestination oo s else s.pc) ∧ Frame [] [] s t ∧ SameMemoryBut [] s t) := by
  refine ruleOf_of_finalState hforms fun i s n hi _ oo ho => ?_
  rw [finalState_branch hm hi, branched_eq_setPc ho]
  simp only [branchTaken_iff hm hi]
  exact ⟨rfl, frame_setLastCycles.mpr (frame_setPc _ s), fun _ _ => rfl⟩

/-! ### The statement -/

/-- Settles O45: each is a branch on the flag and value that `branchCondition` lists, and its form is the table's (`ruleOf_branch`). -/
theorem branches : Obligations.Branches := by
  unfold Obligations.Branches
  exact ⟨ruleOf_branch rfl (by decide), ruleOf_branch rfl (by decide), ruleOf_branch rfl (by decide), ruleOf_branch rfl (by decide),
    ruleOf_branch rfl (by decide), ruleOf_branch rfl (by decide), ruleOf_branch rfl (by decide), ruleOf_branch rfl (by decide)⟩

end Sys2Proof.Machine
end

section
/-! PROOFS. PHA and PLA (spec R240, R242): what one push and one pull leave, and what is done with the byte pulled. -/

namespace Sys2Proof.Machine

/-! ### What a push, a pull and the write of the byte pulled leave unchanged (R12, R14, R242) -/

section
variable {regs : List Reg} {flags : List Flag}

theorem frame_setSp (hsp : .sp ∈ regs) (v : Byte) (s : State) : Frame regs flags s (s.setSp v) := by
  refine ⟨fun r hr => ?_, fun _ _ => rfl, rfl, rfl, rfl, rfl, rfl⟩
  cases r with
  | sp => exact absurd hsp hr
  | a | x | y => rfl

theorem frame_pushed (hsp : .sp ∈ regs) (v : Byte) (s : State) : Frame regs flags s (s.pushed v) :=
  ((frame_written _ v s).of_empty _ _).trans (frame_setSp hsp _ _)

theorem frame_pulled (hsp : .sp ∈ regs) (s : State) : Frame regs flags s s.pulled :=
  (frame_setSp hsp _ s).trans ((frame_logAccess _ _).of_empty _ _)

theorem frame_plaEffect (ha : .a ∈ regs) (hz : .z ∈ flags) (hn : .n ∈ flags) (v : Byte) (s : State) :
    Frame regs flags s (plaEffect v s) :=
  (frame_setA ha v s).trans (frame_setNZ hz hn v _)

end

/-! ### What a push and a pull do (R14, R240, R242) -/

/-- The state an instruction leaves that pushes `v`. -/
theorem pushResult {s : State} (hinv : s.inv = true) (v : Byte) (n : Option Nat) :
    ∀ t, t = (s.pushed v).setLastCycles n →
      t.sp = s.sp - 1 ∧ Stored 0 (stackLocation s.sp.toNat) v s t ∧ SameMemoryBut [stackLocation s.sp.toNat] s t ∧
        Frame [.sp] [] s t ∧ t.pc = s.pc := by
  rintro _ rfl
  obtain ⟨hstored, hsame⟩ := stored_pushed v (State.inv_wf hinv)
  rw [stackLocation_sp]
  exact ⟨rfl, stored_setLastCycles.mpr hstored, sameMemoryBut_setLastCycles.mpr hsame,
    frame_setLastCycles.mpr (frame_pushed (by decide) v s), s.pushed_pc v⟩

/-- The byte that a pull returns is the one at the location after SP, modulo 256 (R14). -/
theorem pulledByte_eq (s : State) : s.pulledByte = s.answer 0 (stackLocation (s.sp.toNat + 1)) := by
  rw [stackLocation_add_one, State.pulledByte]

theorem finalState_pha {i : Instr} (hi : i.mnemonic = some .pha) (s : State) : finalState i s = s.pushed s.a := by
  simp only [finalState, hi]

theorem finalState_pla {i : Instr} (hi : i.mnemonic = some .pla) (s : State) :
    finalState i s = plaEffect s.pulledByte s.pulled := by
  simp only [finalState, hi]

/-! ### The statement -/

/-- Settles O46: PHA is a push of A (`pushResult`); PLA is a pull, whose byte goes to A with its Z and N (`frame_plaEffect`). -/
theorem accumulatorOnTheStack : Obligations.AccumulatorOnTheStack := by
  unfold Obligations.AccumulatorOnTheStack
  refine ⟨?_, ?_⟩
  · refine accessRuleOf_of_finalState (by decide) fun i s n hi hinv => pushResult hinv s.a (some n) _ ?_
    rw [finalState_pha hi]
  · refine accessRuleOf_of_finalState (by decide) fun i s n hi _ => ?_
    rw [finalState_pla hi]
    have hframe : Frame [.a, .sp] [.z, .n] s (plaEffect s.pulledByte s.pulled) :=
      (frame_pulled (by decide) s).trans (frame_plaEffect (by decide) (by decide) (by decide) _ _)
    exact ⟨rfl, pulledByte_eq s, nzOf_setNZ _ _ _, frame_setLastCycles.mpr hframe, rfl, fun _ _ => rfl⟩

end Sys2Proof.Machine
end

section
/-! PROOFS. JMP, RTS, and a JSR with the RTS that returns from it (spec R260 to R262). -/

namespace Sys2Proof.Machine

/-! ### JMP (R260) -/

theorem finalState_jmp {i : Instr} (hi : i.mnemonic = some .jmp) (s : State) : finalState i s = s.jumped i := by
  simp only [finalState, hi]

/-- JMP has two forms (R115). -/
theorem eq_jmp_of_mnemonic {i : Instr} (h : i.mnemonic = some .jmp) : (∃ addr, i = .jmpAbs addr) ∨ ∃ ptr, i = .jmpInd ptr := by
  cases i with
  | jmpAbs addr => exact .inl ⟨addr, rfl⟩
  | jmpInd ptr => exact .inr ⟨ptr, rfl⟩
  | _ => cases h

/-- Settles O49: the absolute form writes PC alone, the indirect form reads its two bytes and then writes PC alone. -/
theorem jumps : Obligations.Jumps := by
  unfold Obligations.Jumps
  refine accessRuleOf_of_finalState (by decide) fun i s n hi _ => ?_
  rw [finalState_jmp hi]
  rcases eq_jmp_of_mnemonic hi with ⟨addr, rfl⟩ | ⟨ptr, rfl⟩
  · refine ⟨fun addr' ho => ?_, fun ptr ho => ?_, frame_setLastCycles.mpr (frame_setPc addr s), fun _ _ => rfl⟩
    · cases ho; rfl
    · cases ho
  · refine ⟨fun addr ho => ?_, fun ptr' ho => ?_,
      frame_setLastCycles.mpr ((frame_afterReads ptr (indirectHigh ptr) s).trans (frame_setPc _ _)), fun _ _ => rfl⟩
    · cases ho
    · cases ho; exact toNat_mkWord _ _

/-! ### RTS (R262) -/

/-- The state that RTS leaves, but for the count. -/
def State.returnedFromCall (s : State) : State := s.pulled.pulled.setPc (mkWord s.pulled.pulledByte s.pulledByte + 1)

theorem finalState_rts {i : Instr} (hi : i.mnemonic = some .rts) (s : State) : finalState i s = s.returnedFromCall := by
  simp only [finalState, hi, State.returnedFromCall]

/-- The byte that a second pull returns is the one two locations after SP, modulo 256 (R14). -/
theorem pulledByte_pulled (s : State) : s.pulled.pulledByte = s.answer 1 (stackLocation (s.sp.toNat + 2)) := by
  rw [stackLocation_add_two, State.pulledByte, State.pulled_answer, State.pulled_sp]

theorem returnedFromCall_pc (s : State) : s.returnedFromCall.pc = mkWord s.pulled.pulledByte s.pulledByte + 1 := rfl

theorem returnedFromCall_sp (s : State) : s.returnedFromCall.sp = s.sp + 2 := BitVec.add_assoc s.sp 1 1

theorem returnedFromCall_byteAt (s : State) (b : Word) : s.returnedFromCall.byteAt b = s.byteAt b := rfl

theorem frame_returnedFromCall (s : State) : Frame [.sp] [] s s.returnedFromCall :=
  ((frame_pulled (by decide) s).trans (frame_pulled (by decide) _)).trans ((frame_setPc _ _).of_empty _ _)

/-- Settles O51: RTS is two pulls, whose bytes are the word before the new PC. -/
theorem subroutineReturn : Obligations.SubroutineReturn := by
  unfold Obligations.SubroutineReturn
  refine accessRuleOf_of_finalState (by decide) fun i s n hi _ => ?_
  rw [finalState_rts hi]
  refine ⟨?_, ?_, frame_setLastCycles.mpr (frame_returnedFromCall s), sameMemoryBut_setLastCycles.mpr fun _ _ => rfl⟩
  · rw [State.setLastCycles_sp, returnedFromCall_sp]
  · rw [State.setLastCycles_pc, returnedFromCall_pc, add_one_eq_word, toNat_word, toNat_mkWord, pulledByte_eq, pulledByte_pulled]

/-! ### JSR and then RTS over the plain memory (R261, R262) -/

/-- Over the plain memory every legal instruction completes in its final state (R72). -/
theorem exec_plain {i : Instr} {s : State} (hi : i.mnemonic ≠ none) (hplain : s.plainBus) :
    ∃ n, exec i s = .next ((finalState i s).setLastCycles (some n)) := by
  obtain ⟨n, r, hexec, hscript, -⟩ := exec_runs i s hi
  exact ⟨n, by rw [hexec, hscript.finish_ok (busAccepts_plain hplain _)]⟩

theorem plainBus_pushed {s : State} (h : s.plainBus) (v : Byte) : (s.pushed v).plainBus := plainBus_written h _ v

/-- Where SP is as it was, it belongs to the frame. -/
theorem Frame.of_sp {flags : List Flag} {s t : State} (h : Frame [.sp] flags s t) (hsp : t.sp = s.sp) : Frame [] flags s t := by
  obtain ⟨hreg, hrest⟩ := h
  refine ⟨fun r _ => ?_, hrest⟩
  cases r with
  | sp => exact hsp
  | a | x | y => exact hreg _ (by decide)

/-- The state that JSR leaves, but for the count. -/
def State.calledAt (addr : Word) (s : State) : State := ((s.pushed (hiByte (s.pc - 1))).pushed (loByte (s.pc - 1))).setPc addr

theorem finalState_jsr (addr : Word) (s : State) : finalState (.jsr addr) s = s.calledAt addr := rfl

/-- The count of the JSR has no part in the return. -/
theorem setLastCycles_returnedFromCall (s : State) (n : Option Nat) :
    (s.setLastCycles n).returnedFromCall = s.returnedFromCall.setLastCycles n := rfl

section
variable {s : State} (addr : Word)

theorem calledAt_pc : (s.calledAt addr).pc = addr := State.setPc_pc _ addr

theorem frame_calledAt : Frame [.sp] [] s (s.calledAt addr) :=
  ((frame_pushed (by decide) _ s).trans (frame_pushed (by decide) _ _)).trans ((frame_setPc _ _).of_empty _ _)

theorem calledAt_sp_add_two : (s.calledAt addr).sp + 2 = s.sp := by
  show s.sp - 1 - 1 + 2 = s.sp
  bv_omega

theorem plainBus_calledAt (hplain : s.plainBus) : (s.calledAt addr).plainBus := plainBus_pushed (plainBus_pushed hplain _) _

variable (hinv : s.inv = true)
include hinv

theorem sameMemory_calledAt :
    SameMemoryBut [stackLocation s.sp.toNat, stackLocation (s.sp.toNat + 255)] s (s.calledAt addr) := by
  obtain ⟨-, -, hsame⟩ := stored_pushed_two (hiByte (s.pc - 1)) (loByte (s.pc - 1)) (State.inv_wf hinv)
  rw [stackLocation_sp, stackLocation_sub_one]
  exact hsame

variable (hplain : s.plainBus)
include hplain

/-- The low byte, pushed last, is the first one pulled, and the high byte the second. -/
theorem calledAt_pulls :
    (s.calledAt addr).pulledByte = loByte (s.pc - 1) ∧ (s.calledAt addr).pulled.pulledByte = hiByte (s.pc - 1) := by
  obtain ⟨hhigh, hlow, -⟩ := stored_pushed_two (hiByte (s.pc - 1)) (loByte (s.pc - 1)) (State.inv_wf hinv)
  have hbus := plainBus_calledAt addr hplain
  constructor
  · have hsp : (s.calledAt addr).sp + 1 = s.sp - 1 := BitVec.sub_add_cancel _ _
    rw [State.pulledByte, answer_plain hbus, hsp]
    exact hlow.1 (storesAt_plain hplain 1)
  · have hsp : (s.calledAt addr).sp + 1 + 1 = s.sp := (BitVec.add_assoc _ 1 1).trans (calledAt_sp_add_two addr)
    rw [State.pulledByte, State.pulled_answer, State.pulled_sp, answer_plain hbus, hsp]
    exact hhigh.1 (storesAt_plain hplain 0)

/-- The RTS after the JSR goes to the address after the JSR. -/
theorem calledAt_returnedFromCall_pc : (s.calledAt addr).returnedFromCall.pc = s.pc := by
  obtain ⟨hlow, hhigh⟩ := calledAt_pulls addr hinv hplain
  rw [returnedFromCall_pc, hlow, hhigh, mkWord_bytes, BitVec.sub_add_cancel]

end

/-- Settles O52: RTS pulls the two bytes that JSR pushed, and its word plus 1 is the address after the JSR. -/
theorem callThenReturn : Obligations.CallThenReturn := by
  unfold Obligations.CallThenReturn
  intro s addr hinv hplain
  obtain ⟨m, hcall⟩ := exec_plain (i := .jsr addr) (Option.some_ne_none _) hplain
  rw [finalState_jsr] at hcall
  have hbus : ((s.calledAt addr).setLastCycles (some m)).plainBus := plainBus_calledAt addr hplain
  obtain ⟨n, hreturn⟩ := exec_plain (i := .rts) (Option.some_ne_none _) hbus
  rw [finalState_rts rfl, setLastCycles_returnedFromCall] at hreturn
  have hframe : Frame [.sp] [] s (s.calledAt addr).returnedFromCall := (frame_calledAt addr).trans (frame_returnedFromCall _)
  have hsp : (s.calledAt addr).returnedFromCall.sp = s.sp := (returnedFromCall_sp _).trans (calledAt_sp_add_two addr)
  have hsame := (sameMemory_calledAt addr hinv).congr (returnedFromCall_byteAt _)
  refine ⟨_, _, hcall, ?_, hreturn, ?_, frame_setLastCycles.mpr (frame_setLastCycles.mpr (hframe.of_sp hsp)),
    sameMemoryBut_setLastCycles.mpr (sameMemoryBut_setLastCycles.mpr hsame)⟩
  · rw [State.setLastCycles_pc, calledAt_pc]
  · rw [State.setLastCycles_pc, State.setLastCycles_pc, calledAt_returnedFromCall_pc addr hinv hplain]

end Sys2Proof.Machine
end

section
/-! PROOFS. Register transfers, increments and decrements (spec R290 to R301): which register each writes with which byte, and the count
of the byte at EA. -/

namespace Sys2Proof.Machine

/-! ### Writes of a register (R12) -/

/-- The write of a register but PC and P, by the register's name. -/
def State.setReg (r : Reg) (v : Byte) (s : State) : State :=
  match r with
  | .a => s.setA v
  | .x => s.setX v
  | .y => s.setY v
  | .sp => s.setSp v

section
variable (r : Reg) (v : Byte) (s : State)

theorem reg_setReg (g : Reg) : (s.setReg r v).reg g = if g = r then v else s.reg g := by
  cases r <;> cases g <;> rfl

theorem setReg_pc : (s.setReg r v).pc = s.pc := by cases r <;> rfl

theorem setReg_byteAt (addr : Word) : (s.setReg r v).byteAt addr = s.byteAt addr := by cases r <;> rfl

theorem frame_setReg {flags : List Flag} : Frame [r] flags s (s.setReg r v) := by
  refine ⟨fun g hg => ?_, ?_⟩
  · rw [reg_setReg, if_neg (List.mem_singleton.not.mp hg)]
  · cases r <;> exact ⟨fun _ _ => rfl, rfl, rfl, rfl, rfl, rfl⟩

end

/-! ### Which register is written (R290 to R294, R296 to R299) -/

/-- The register that a transfer or a count writes together with Z and N, and the byte it takes; none for any other mnemonic. TXS is
not here: it writes no flag. -/
def registerWrite (m : Mnemonic) (s : State) : Option (Reg × Byte) :=
  match m with
  | .tax => some (.x, s.a)
  | .tay => some (.y, s.a)
  | .txa => some (.a, s.x)
  | .tya => some (.a, s.y)
  | .tsx => some (.x, s.sp)
  | .inx => some (.x, s.x + 1)
  | .iny => some (.y, s.y + 1)
  | .dex => some (.x, s.x - 1)
  | .dey => some (.y, s.y - 1)
  | _ => none

section
variable {m : Mnemonic} {r : Reg} {v : Byte} {i : Instr} {s : State}

theorem finalState_registerWrite (hw : registerWrite m s = some (r, v)) (hi : i.mnemonic = some m) :
    finalState i s = (s.setReg r v).setNZ v := by
  unfold registerWrite at hw
  split at hw
  case h_10 => cases hw
  all_goals
    cases hw
    simp only [finalState, hi, State.setReg]

/-- The state that the write of a register with Z and N leaves. -/
theorem registerResult (hw : registerWrite m s = some (r, v)) (hi : i.mnemonic = some m) (n : Option Nat) :
    ∀ t, t = (finalState i s).setLastCycles n →
      t.reg r = v ∧ NZOf v t ∧ Frame [r] [.z, .n] s t ∧ t.pc = s.pc ∧ SameMemoryBut [] s t := by
  rintro _ rfl
  rw [finalState_registerWrite hw hi]
  have hframe : Frame [r] [.z, .n] s ((s.setReg r v).setNZ v) :=
    (frame_setReg r v s).trans (frame_setNZ (by decide) (by decide) v _)
  refine ⟨?_, nzOf_setNZ v _ n, frame_setLastCycles.mpr hframe, setReg_pc r v s, fun addr _ => setReg_byteAt r v s addr⟩
  cases r <;> rfl

/-- The same where the byte is given by its number. -/
theorem registerCount (k : Nat) (hw : registerWrite m s = some (r, v)) (hv : v.toNat = k) (hi : i.mnemonic = some m)
    (n : Option Nat) :
    ∀ t, t = (finalState i s).setLastCycles n →
      (t.reg r).toNat = k ∧ NZOf (t.reg r) t ∧ Frame [r] [.z, .n] s t ∧ t.pc = s.pc ∧ SameMemoryBut [] s t := by
  intro t ht
  obtain ⟨hreg, hnz, hrest⟩ := registerResult hw hi n t ht
  rw [hreg]
  exact ⟨hv, hnz, hrest⟩

end

theorem finalState_txs {i : Instr} (hi : i.mnemonic = some .txs) (s : State) : finalState i s = s.setSp s.x := by
  simp only [finalState, hi]

/-! ### Counting modulo 256 (R296 to R301) -/

theorem toNat_increment (v : Byte) : (v + 1).toNat = (v.toNat + 1) % 256 := BitVec.toNat_add v 1

theorem toNat_decrement (v : Byte) : (v - 1).toNat = (v.toNat + 255) % 256 := by
  rw [BitVec.toNat_sub, Nat.add_comm]
  rfl

theorem incValue_eq (v : Byte) (c : Bool) : incValue v c = BitVec.ofNat 8 (v.toNat + 1) :=
  BitVec.eq_of_toNat_eq (toNat_increment v)

theorem decValue_eq (v : Byte) (c : Bool) : decValue v c = BitVec.ofNat 8 (v.toNat + 255) :=
  BitVec.eq_of_toNat_eq (toNat_decrement v)

/-! ### INC and DEC (R300, R301) -/

theorem finalState_inc {i : Instr} {s : State} {r : Byte} (hi : i.mnemonic = some .inc)
    (hr : r = BitVec.ofNat 8 ((operandByte i s).toNat + 1)) : finalState i s = (s.modified i r).setNZ r := by
  simp only [finalState, hi, hr, incValue_eq, countFlags]

theorem finalState_dec {i : Instr} {s : State} {r : Byte} (hi : i.mnemonic = some .dec)
    (hr : r = BitVec.ofNat 8 ((operandByte i s).toNat + 255)) : finalState i s = (s.modified i r).setNZ r := by
  simp only [finalState, hi, hr, decValue_eq, countFlags]

/-- The state that a count of the byte at EA leaves whose result is `r`. -/
theorem memoryCount {i : Instr} {s : State} {m : MemMode} (hinv : s.inv = true) (hm : i.memMode = some m) (r : Byte)
    (n : Option Nat) :
    ∀ t, t = ((s.modified i r).setNZ r).setLastCycles n →
      NZOf r t ∧ Stored (pointerReads m + 1) (effectiveAddress m s) r s t ∧ SameMemoryBut [effectiveAddress m s] s t ∧
        Frame [] [.z, .n] s t ∧ t.pc = s.pc := by
  rintro _ rfl
  obtain ⟨hstored, hsame⟩ := stored_modified m r (State.inv_wf hinv)
  rw [← modified_memory hm] at hstored hsame
  have hframe : Frame [] [.z, .n] s ((s.modified i r).setNZ r) :=
    ((frame_modified_memory hm r s).of_empty _ _).trans (frame_setNZ (by decide) (by decide) r _)
  exact ⟨nzOf_setNZ r _ n, stored_setLastCycles.mpr (hstored.congr (State.setNZ_byteAt _ r _)),
    sameMemoryBut_setLastCycles.mpr (hsame.congr (State.setNZ_byteAt _ r)), frame_setLastCycles.mpr hframe, modified_pc i r s⟩

/-! ### The statements -/

/-- Settles O55: all but TXS are writes that `registerWrite` lists (`registerResult`); TXS writes SP alone. -/
theorem transfers : Obligations.Transfers := by
  unfold Obligations.Transfers
  refine ⟨?_, ?_, ?_, ?_, ?_, ?_⟩
  · exact ruleOf_of_finalState (by decide) fun i s n hi _ => registerResult (r := .x) rfl hi _ _ rfl
  · exact ruleOf_of_finalState (by decide) fun i s n hi _ => registerResult (r := .y) rfl hi _ _ rfl
  · exact ruleOf_of_finalState (by decide) fun i s n hi _ => registerResult (r := .a) rfl hi _ _ rfl
  · exact ruleOf_of_finalState (by decide) fun i s n hi _ => registerResult (r := .a) rfl hi _ _ rfl
  · exact ruleOf_of_finalState (by decide) fun i s n hi _ => registerResult (r := .x) rfl hi _ _ rfl
  · refine ruleOf_of_finalState (by decide) fun i s n hi _ => ?_
    rw [finalState_txs hi]
    exact ⟨rfl, frame_setLastCycles.mpr (frame_setSp (by decide) _ s), rfl, fun _ _ => rfl⟩

/-- Settles O56: each is a write that `registerWrite` lists, whose byte is its number by `toNat_increment` or `toNat_decrement`. -/
theorem registerIncrements : Obligations.RegisterIncrements := by
  unfold Obligations.RegisterIncrements
  refine ⟨?_, ?_, ?_, ?_⟩
  · exact ruleOf_of_finalState (by decide) fun i s n hi _ => registerCount (r := .x) _ rfl (toNat_increment s.x) hi _ _ rfl
  · exact ruleOf_of_finalState (by decide) fun i s n hi _ => registerCount (r := .y) _ rfl (toNat_increment s.y) hi _ _ rfl
  · exact ruleOf_of_finalState (by decide) fun i s n hi _ => registerCount (r := .x) _ rfl (toNat_decrement s.x) hi _ _ rfl
  · exact ruleOf_of_finalState (by decide) fun i s n hi _ => registerCount (r := .y) _ rfl (toNat_decrement s.y) hi _ _ rfl

/-- Settles O57: each result is its number (`incValue_eq`, `decValue_eq`), and what it does to the state is `memoryCount`. -/
theorem memoryIncrements : Obligations.MemoryIncrements := by
  unfold Obligations.MemoryIncrements
  refine ⟨?_, ?_⟩
  · refine accessRuleOf_of_finalState (by decide) fun i s n hi hinv m r hm hr => memoryCount hinv hm r (some n) _ ?_
    rw [finalState_inc hi hr]
  · refine accessRuleOf_of_finalState (by decide) fun i s n hi hinv m r hm hr => memoryCount hinv hm r (some n) _ ?_
    rw [finalState_dec hi hr]

end Sys2Proof.Machine
end

section
/-! PROOFS. LDA, LDX and LDY, STX and STY (spec R320 to R322, R324, R325): which register takes the operand byte, and which is written at
EA. -/

namespace Sys2Proof.Machine

/-! ### Loads (R320 to R322) -/

/-- The register that a load writes; none for any other mnemonic. -/
def loadedRegister : Mnemonic → Option Reg
  | .lda => some .a
  | .ldx => some .x
  | .ldy => some .y
  | _ => none

section
variable {m : Mnemonic} {r : Reg} {i : Instr}

/-- A load reads its operand and puts it in its register, with its Z and N. -/
theorem finalState_load (hm : loadedRegister m = some r) (hi : i.mnemonic = some m) (s : State) :
    finalState i s = ((s.afterOperand i).setReg r (operandByte i s)).setNZ (operandByte i s) := by
  unfold loadedRegister at hm
  split at hm
  case h_4 => cases hm
  all_goals
    cases hm
    simp only [finalState, hi]
    rfl

/-- The state that a load leaves. -/
theorem loadResult (hm : loadedRegister m = some r) (hi : i.mnemonic = some m) (s : State) (n : Option Nat) :
    ∀ t, t = (finalState i s).setLastCycles n →
      t.reg r = operandByte i s ∧ NZOf (operandByte i s) t ∧ Frame [r] [.z, .n] s t ∧ t.pc = s.pc ∧ SameMemoryBut [] s t := by
  rintro _ rfl
  rw [finalState_load hm hi]
  have hframe : Frame [r] [.z, .n] s (((s.afterOperand i).setReg r (operandByte i s)).setNZ (operandByte i s)) :=
    (((frame_afterOperand i s).of_empty _ _).trans (frame_setReg r _ _)).trans (frame_setNZ (by decide) (by decide) _ _)
  have hpc := (setReg_pc r (operandByte i s) _).trans (s.afterOperand_pc i)
  have hsame := (sameMemory_afterOperand i s).congr (setReg_byteAt r (operandByte i s) _)
  refine ⟨?_, nzOf_setNZ _ _ n, frame_setLastCycles.mpr hframe, hpc, sameMemoryBut_setLastCycles.mpr hsame⟩
  cases r <;> rfl

end

/-! ### Stores of a register (R324, R325) -/

theorem storedTo_memory {i : Instr} {m : MemMode} (hm : i.memMode = some m) (v : Byte) (s : State) :
    s.storedTo i v = (s.afterPointer m).written (effectiveAddress m s) v := by
  rw [State.storedTo, hm]

/-- The state that a store of `v` at EA leaves. -/
theorem storeResult {i : Instr} {s : State} {m : MemMode} (hinv : s.inv = true) (hm : i.memMode = some m) (v : Byte)
    (n : Option Nat) :
    ∀ t, t = (s.storedTo i v).setLastCycles n →
      Stored (pointerReads m) (effectiveAddress m s) v s t ∧ SameMemoryBut [effectiveAddress m s] s t ∧ Frame [] [] s t ∧
        t.pc = s.pc := by
  rintro _ rfl
  rw [storedTo_memory hm]
  obtain ⟨hstored, hsame⟩ := stored_storedTo m v (State.inv_wf hinv)
  have hframe := (frame_afterPointer m s).trans (frame_written (effectiveAddress m s) v _)
  have hpc := (State.written_pc (s.afterPointer m) (effectiveAddress m s) v).trans (s.afterPointer_pc m)
  exact ⟨stored_setLastCycles.mpr hstored, sameMemoryBut_setLastCycles.mpr hsame, frame_setLastCycles.mpr hframe, hpc⟩

theorem finalState_stx {i : Instr} (hi : i.mnemonic = some .stx) (s : State) : finalState i s = s.storedTo i s.x := by
  simp only [finalState, hi]

theorem finalState_sty {i : Instr} (hi : i.mnemonic = some .sty) (s : State) : finalState i s = s.storedTo i s.y := by
  simp only [finalState, hi]

/-! ### The statements -/

/-- Settles O32: each is a load of the register that `loadedRegister` lists (`loadResult`). -/
theorem loads : Obligations.Loads := by
  unfold Obligations.Loads
  refine ⟨?_, ?_, ?_⟩
  · exact accessRuleOf_of_finalState (by decide) fun i s n hi _ => loadResult (r := .a) rfl hi s _ _ rfl
  · exact accessRuleOf_of_finalState (by decide) fun i s n hi _ => loadResult (r := .x) rfl hi s _ _ rfl
  · exact accessRuleOf_of_finalState (by decide) fun i s n hi _ => loadResult (r := .y) rfl hi s _ _ rfl

/-- Settles O33: each is a store of its register, as it stands before the pointer is read (`storeResult`). -/
theorem storeIndexRegisters : Obligations.StoreIndexRegisters := by
  unfold Obligations.StoreIndexRegisters
  refine ⟨?_, ?_⟩
  · refine accessRuleOf_of_finalState (by decide) fun i s n hi hinv m hm => storeResult hinv hm s.x (some n) _ ?_
    rw [finalState_stx hi]
  · refine accessRuleOf_of_finalState (by decide) fun i s n hi hinv m hm => storeResult hinv hm s.y (some n) _ ?_
    rw [finalState_sty hi]

end Sys2Proof.Machine
end

section
/-! PROOFS. A core that does not run, the invariant (memory in canonical form and U at 1), what a completed step keeps, and what a bus
fault leaves (spec R42, R43, R72, R402, R403, R407 to R409). -/

namespace Sys2Proof.Machine

/-! ### A step of a core that does not run (R408, R409) -/

theorem step_of_boundary_fault {s : State} {f : Fault} (h : boundary s = .fault f) : step s = .fault f := by simp only [step, h]

theorem step_notReset {s : State} (h : s.runState = .notReset) : step s = .fault .notReset :=
  step_of_boundary_fault (by simp only [boundary, h])

theorem step_halted {s : State} {r : FaultRecord} (h : s.runState = .halted r) : step s = .fault (faultOf r s) :=
  step_of_boundary_fault (by simp only [boundary, h])

/-- A core that does not run answers each step with a fault that leaves it as it was. -/
theorem step_notRunning {s : State} (h : s.runState ≠ .running) :
    step s = .fault .notReset ∨ ∃ r, s.runState = .halted r ∧ step s = .fault (faultOf r s) := by
  cases hr : s.runState with
  | notReset => exact .inl (step_notReset hr)
  | running => exact absurd hr h
  | halted r => exact .inr ⟨r, rfl, step_halted hr⟩

theorem faultOf_eq_illegalOpcode {r : FaultRecord} {op : Byte} {addr : Word} {s t : State} (h : faultOf r s = .illegalOpcode op addr t) :
    t = s := by
  cases r <;> cases h
  rfl

theorem faultOf_eq_busFault {r : FaultRecord} {addr : Word} {kind : AccessKind} {info : BusInfo} {s t : State}
    (h : faultOf r s = .busFault addr kind info t) : t = s := by
  cases r <;> cases h
  rfl

/-! ### The invariant -/

theorem State.inv_iff {s : State} : s.inv = true ↔ Memory.wf s.bus.mem = true ∧ s.p.getLsbD 5 = true := Bool.and_eq_true_iff

/-- Every part of a step keeps the invariant. -/
theorem Advances.inv {s t : State} (h : Advances s t) (hs : s.inv = true) : t.inv = true := by
  obtain ⟨hwf, hunused⟩ := State.inv_iff.mp hs
  exact State.inv_iff.mpr ⟨h.wf hwf, h.unused hunused⟩

/-- A bus fault writes P as any write does, with U at 1, and no memory (R43, R407). -/
theorem inv_haltUnspecified {s : State} (r : FaultRecord) (hs : s.inv = true) : (s.haltUnspecified r).inv = true :=
  State.inv_iff.mpr ⟨State.inv_wf (s := s) hs, State.setStatus_bit5 s _⟩

theorem inv_haltIllegal {s : State} (op : Byte) (addr : Word) (hs : s.inv = true) : (s.haltIllegal op addr).inv = true := hs

/-- Settles O17: a running core only advances before it completes or halts, and a core that does not run stays as it is. -/
theorem stepKeepsTheInvariant : Obligations.StepKeepsTheInvariant := by
  unfold Obligations.StepKeepsTheInvariant
  intro s hinv
  refine ⟨fun t h => ?_, fun op addr t h => ?_, fun addr kind info t h => ?_⟩
  · obtain ⟨-, latch, -, hadv⟩ := step_next h
    exact hadv.inv hinv
  · by_cases hrun : s.runState = .running
    · obtain ⟨u, hadv, rfl⟩ := step_illegalOpcode hrun h
      exact inv_haltIllegal op addr (hadv.inv hinv)
    · rcases step_notRunning hrun with hstep | ⟨r, -, hstep⟩
      · rw [hstep] at h; cases h
      · rw [hstep] at h
        rwa [faultOf_eq_illegalOpcode (Host.Outcome.fault.inj h)]
  · by_cases hrun : s.runState = .running
    · obtain ⟨latch, u, -, rfl, hadv, -, -⟩ := step_busFault hrun h
      exact inv_haltUnspecified _ (hadv.inv hinv)
    · rcases step_notRunning hrun with hstep | ⟨r, -, hstep⟩
      · rw [hstep] at h; cases h
      · rw [hstep] at h
        rwa [faultOf_eq_busFault (Host.Outcome.fault.inj h)]

/-! ### Completed steps (R42, R402, R403) -/

/-- Settles O19: a completed step advances from the state with its marker and with the NMI latch kept or cleared. -/
theorem completedStepsKeepLineParametersAndBreak : Obligations.CompletedStepsKeepLineParametersAndBreak := by
  unfold Obligations.CompletedStepsKeepLineParametersAndBreak
  intro s t h
  obtain ⟨hrun, latch, hlatch, hadv⟩ := step_next h
  exact ⟨hadv.irqLine, hadv.params, hadv.brk, hadv.runState.trans hrun, hadv.nmiPending ▸ hlatch⟩

/-! ### Bus faults (R407) -/

theorem BusEvent.Rejects.cases {e : BusEvent} {kind : AccessKind} {addr : Word} {info : BusInfo} (h : e.Rejects (kind, addr) info) :
    e = .rejectedRead addr info ∧ kind = .read ∨ ∃ v, e = .rejectedWrite addr v info ∧ kind = .write := by
  cases kind with
  | read => exact .inl ⟨h, rfl⟩
  | write =>
    obtain ⟨v, he⟩ := h
    exact .inr ⟨v, he, rfl⟩

theorem BusEvent.Rejects.ne_start {e : BusEvent} {access : Access} {info : BusInfo} (h : e.Rejects access info) (op : BusOp) :
    e ≠ .start op := by
  rcases h.cases with ⟨rfl, -⟩ | ⟨v, rfl, -⟩ <;> exact fun he => by cases he

theorem BusEvent.Rejects.ne_write {e : BusEvent} {access : Access} {info : BusInfo} (h : e.Rejects access info) (b : Word) (v : Byte) :
    e ≠ .write b v := by
  rcases h.cases with ⟨rfl, -⟩ | ⟨w, rfl, -⟩ <;> exact fun he => by cases he

/-- Where the last entry of a step is not its marker, it is the last of the step's accesses. -/
theorem exists_cons_of_history {es rest history : List BusEvent} {e : BusEvent} {op : BusOp} (he : e ≠ .start op)
    (h : es ++ .start op :: history = e :: rest) : ∃ fs, es = e :: fs := by
  cases es with
  | nil => exact absurd (List.cons.inj h).1.symm he
  | cons f fs => exact ⟨fs, by rw [(List.cons.inj h).1]⟩

/-- Settles O11: the step stopped at the rejected access after advancing so far, with its accesses accounting for the memory; no step
writes an address twice, so no later write covers one that was taken. -/
theorem busFaultHaltsTheCore : Obligations.BusFaultHaltsTheCore := by
  unfold Obligations.BusFaultHaltsTheCore
  intro s t addr kind info hrun h
  obtain ⟨latch, u, hlatch, rfl, hadv, ⟨e, rest, hlast, hrejects⟩, accesses, honce, gs, hgs, haccesses⟩ := step_busFault hrun h
  obtain ⟨fs, hfs⟩ := hadv.history
  obtain rfl : gs = fs := List.append_cancel_right (hgs.symm.trans hfs.history)
  obtain ⟨es, rfl⟩ := exists_cons_of_history (hrejects.ne_start .step) (hgs.symm.trans hlast)
  have hpast {k : Nat} {x : BusEvent} (hk : es.reverse[k]? = some x) : (e :: es).reverse[k]? = some x := by
    rw [List.reverse_cons, List.getElem?_append_left (List.getElem?_eq_some_iff.mp hk).1, hk]
  refine ⟨rfl, rfl, hadv.irqLine, hadv.params, hadv.nmiPending ▸ hlatch, State.flag_u _,
    ⟨es, e, hgs, fun x hx => hfs.accesses x (List.mem_cons_of_mem e hx), hrejects.cases, fun hinv => ⟨fun b hb => ?_, ?_⟩⟩,
    step_halted (r := .busFault addr kind info) rfl⟩
  · exact (List.mem_cons.mp (hfs.changed (State.inv_wf hinv) b hb)).resolve_left (hrejects.ne_write _ _).symm
  · intro k b v hk hstores
    exact hfs.kept (State.inv_wf hinv) k b v (hpast hk) hstores fun j w hj => honce.entry_unique haccesses hj (hpast hk)

end Sys2Proof.Machine
end

section
/-! PROOFS. What a step does first, and where it is the instruction at PC (spec R113, R119, R405, R408, R411). -/

namespace Sys2Proof.Machine

/-! ### The boundary (R405, R411) -/

theorem step_of_boundary_interrupt {s : State} {kind : InterruptKind} (h : boundary s = .interrupt kind) :
    step s = interruptEntry kind (s.beginOp .step) := by simp only [step, h]

theorem step_nmi {s : State} (hrun : s.runState = .running) (hnmi : s.nmiPending = true) :
    step s = interruptEntry .nmi (s.beginOp .step) :=
  step_of_boundary_interrupt (by simp [boundary, hrun, hnmi])

theorem step_irq {s : State} (hrun : s.runState = .running) (hnmi : s.nmiPending = false) (hirq : s.irqLine = true)
    (hi : s.flag .i = false) : step s = interruptEntry .irq (s.beginOp .step) :=
  step_of_boundary_interrupt (by simp [boundary, hrun, hnmi, hirq, hi])

/-! ### The first access of an instruction (R119) -/

/-- The step or part of a step completed in `t`, or ended with a fault that leaves `t`. -/
def Leaves (o : Outcome) (t : State) : Prop :=
  o = .next t ∨ (∃ op addr, o = .fault (.illegalOpcode op addr t)) ∨ ∃ addr kind info, o = .fault (.busFault addr kind info t)

theorem Leaves.of_next {t u : State} (h : Leaves (.next u) t) : t = u := by
  rcases h with h | ⟨op, addr, h⟩ | ⟨addr, kind, info, h⟩ <;> cases h
  rfl

theorem Leaves.of_illegalOpcode {op : Byte} {addr : Word} {t u : State} (h : Leaves (.fault (.illegalOpcode op addr u)) t) : t = u := by
  rcases h with h | ⟨op, addr, h⟩ | ⟨addr, kind, info, h⟩ <;> cases h
  rfl

theorem Leaves.of_busFault {addr : Word} {kind : AccessKind} {info : BusInfo} {t u : State}
    (h : Leaves (.fault (.busFault addr kind info u)) t) : t = u := by
  rcases h with h | ⟨op, addr, h⟩ | ⟨addr, kind, info, h⟩ <;> cases h
  rfl

/-- However an instruction ends, the history grew by some accesses. -/
theorem exec_accessed {i : Instr} {s t : State} (h : Leaves (exec i s) t) : ∃ accesses, Accessed accesses s t := by
  rcases exec_cases i s with ⟨op, -, hexec⟩ | ⟨-, -, haccessed, -, n, -, hexec⟩ | ⟨k, access, info, u, -, -, hcut, hexec⟩
  · rw [hexec] at h
    rw [h.of_illegalOpcode]
    exact ⟨[], .refl s⟩
  · rw [hexec] at h
    rw [h.of_next]
    exact ⟨_, haccessed⟩
  · rw [hexec] at h
    rw [h.of_busFault]
    exact ⟨_, hcut.accessed⟩

theorem fetchAccesses_fetchLength (i : Instr) (pc : Word) : ∃ accesses, fetchAccesses i.fetchLength pc = (.read, pc) :: accesses := by
  obtain ⟨n, hn⟩ := Nat.exists_eq_succ_of_ne_zero (fetchLength_pos i).ne'
  exact ⟨_, by rw [hn, fetchAccesses]⟩

/-- However a step at an instruction ends, its first access was a read of PC. -/
theorem step_reads_pc_first {s t : State} (hb : boundary s = .instruction) (h : Leaves (step s) t) :
    ∃ accesses, Accessed ((.read, s.pc) :: accesses) (s.beginOp .step) t := by
  obtain ⟨i, rest, -, hstep⟩ := step_instruction hb
  obtain ⟨fetches, hfetches⟩ := fetchAccesses_fetchLength i s.pc
  rw [hfetches] at hstep
  rcases hstep with ⟨-, hstep⟩ | ⟨k, access, info, u, -, -, hcut, hstep⟩
  · rw [hstep] at h
    obtain ⟨accesses, haccessed⟩ := exec_accessed h
    have hfetched := accessed_fetched i.fetchLength (s.beginOp .step)
    rw [State.beginOp_pc, hfetches] at hfetched
    exact ⟨fetches ++ accesses, hfetched.trans haccessed⟩
  · rw [hstep] at h
    rw [h.of_busFault]
    exact ⟨fetches.take k, hcut.accessed⟩

/-- The first of some accesses is the oldest of the new entries of the history. -/
theorem Accessed.first {access : Access} {accesses : List Access} {s t : State} (h : Accessed (access :: accesses) s t) :
    ∃ es e, t.bus.history = es ++ e :: s.bus.history ∧ e.access = some access := by
  obtain ⟨gs, hgs, haccesses⟩ := h
  cases hrev : gs.reverse with
  | nil => rw [hrev] at haccesses; cases haccesses
  | cons e es =>
    rw [hrev] at haccesses
    refine ⟨es.reverse, e, ?_, (List.cons.inj haccesses).1⟩
    rw [hgs, List.reverse_eq_cons_iff.mp hrev, List.append_assoc]
    rfl

/-- Settles O6: each clause is a case of the boundary, and at an instruction the first access is a read of PC. -/
theorem eventsAtABoundary : Obligations.EventsAtABoundary := by
  unfold Obligations.EventsAtABoundary
  intro s
  refine ⟨step_notReset, fun r => step_halted, step_nmi, step_irq, fun hrun hnmi hirq t ht => ?_⟩
  obtain ⟨accesses, haccessed⟩ := step_reads_pc_first (boundary_instruction hrun hnmi hirq) ht
  exact haccessed.first

/-- Settles O8: the host's inputs do not change run_state, and the boundary looks at it first. -/
theorem stepBeforeResetDoesNothing : Obligations.StepBeforeResetDoesNothing := by
  unfold Obligations.StepBeforeResetDoesNothing
  exact ⟨fun s => step_notReset, rfl, fun s level h => ⟨step_notReset h, step_notReset h⟩⟩

/-! ### The instruction at PC (R113, R119) -/

/-- The step at an instruction whose bytes the bus gives. -/
theorem step_of_decode {s : State} {i : Instr} {rest : List Byte} (hb : boundary s = .instruction)
    (hd : decode s.nextBytes = .ok (i, rest)) (haccepts : s.busAccepts i.fetchLength = true) :
    step s = exec i ((s.beginOp .step).fetched i.fetchLength) := by
  have hfetch := (Script.fetchInstr (s := s.beginOp .step) hd).ok (by rwa [fetchAccesses_length])
  simp only [step, hb, hfetch]

/-- Fetching reads the bytes from PC on in order and leaves PC after them (R37). -/
theorem fetched_eq : ∀ (n : Nat) (s : State),
    s.fetched n =
      { s with
        pc := s.pc + BitVec.ofNat 16 n
        bus :=
          { mem := s.bus.mem
            replies := s.bus.replies.drop n
            history :=
              ((List.range n).map fun k =>
                BusEvent.read (s.pc + BitVec.ofNat 16 k) (s.answer k (s.pc + BitVec.ofNat 16 k))).reverse ++ s.bus.history } }
  | 0, s => by simp [State.fetched]
  | n + 1, s => by
    have hadd (k : Nat) : s.pc + 1#16 + BitVec.ofNat 16 k = s.pc + BitVec.ofNat 16 (k + 1) := by
      rw [BitVec.add_assoc, BitVec.ofNat_add, BitVec.add_comm 1#16]
    simp [State.fetched, fetched_eq n, List.range_succ_eq_map, hadd, Function.comp_def]

/-- Settles O5: the step runs the instruction that the fetch reads, in the state that `fetched_eq` says. -/
theorem stepRunsTheDecodedInstruction : Obligations.StepRunsTheDecodedInstruction := by
  unfold Obligations.StepRunsTheDecodedInstruction
  intro s i rest hrun hnmi hirq hd haccepts
  rw [step_of_decode (boundary_instruction hrun hnmi hirq) hd haccepts, fetched_eq]
  rfl

/-- What an illegal opcode leaves: the state before but for the read of its byte, the record and the count (R408). -/
theorem haltIllegal_fetched (op : Byte) (s : State) :
    ((s.beginOp .step).fetched 1).haltIllegal op s.pc =
      { s with
        runState := .halted (.illegalOpcode op s.pc)
        lastCycles := none
        bus :=
          { mem := s.bus.mem
            replies := s.bus.replies.drop 1
            history := .read s.pc (s.answer 0 s.pc) :: .start .step :: s.bus.history } } := by
  simp only [State.haltIllegal, State.setPc, State.setRunState, State.setLastCycles, State.fetched, State.logAccess, State.beginOp,
    List.drop_one]
  rfl

/-- Settles O9: the bytes at PC decode to the illegal opcode, whose one byte is fetched, and a step of a halted core is its record. -/
theorem illegalOpcodeHaltsTheCore : Obligations.IllegalOpcodeHaltsTheCore := by
  unfold Obligations.IllegalOpcodeHaltsTheCore
  intro s hrun hnmi hirq haccepts hillegal
  have hpc : s.pc + 1 - 1 = s.pc := BitVec.add_sub_cancel _ _
  have hstep : step s = .fault (.illegalOpcode (s.answer 0 s.pc) (s.pc + 1 - 1)
      (((s.beginOp .step).fetched 1).haltIllegal (s.answer 0 s.pc) (s.pc + 1 - 1))) :=
    step_of_decode (boundary_instruction hrun hnmi hirq) (decode_illegal hillegal _) haccepts
  rw [hpc, haltIllegal_fetched] at hstep
  have hhalted {t : State} (ht : t.runState = .halted (.illegalOpcode (s.answer 0 s.pc) s.pc)) :
      step t = .fault (.illegalOpcode (s.answer 0 s.pc) s.pc t) := step_halted ht
  exact ⟨_, hstep, rfl, hhalted rfl, fun level => ⟨hhalted rfl, hhalted rfl⟩⟩

end Sys2Proof.Machine
end

section
/-! PROOFS. The last count and `STORE_PAGE_PENALTY` have no part in what a step does but for the count (spec R9, R459). -/

namespace Sys2Proof.Machine

section
variable (n : Option Nat) (p : StorePagePenalty)

/-! ### An instruction -/

theorem pointerAccesses_withInert (m : MemMode) (s : State) : pointerAccesses m (s.withInert n p) = pointerAccesses m s := by
  cases m <;> rfl

theorem memoryAccesses_withInert (kinds : List AccessKind) (i : Instr) (s : State) :
    memoryAccesses kinds i (s.withInert n p) = memoryAccesses kinds i s := by
  unfold memoryAccesses
  split
  · rw [pointerAccesses_withInert, effectiveAddress_withInert]
  · rfl

theorem ruleAccesses_withInert (i : Instr) (s : State) : ruleAccesses i (s.withInert n p) = ruleAccesses i s := by
  unfold ruleAccesses
  simp only [memoryAccesses_withInert]
  rfl

theorem pageCrossed_withInert (m : MemMode) (s : State) : pageCrossed m (s.withInert n p) = pageCrossed m s := by
  cases m <;> rfl

/-- With the parameters as they are the count is the same. -/
theorem ruleCycles_withInert_self (i : Instr) (s : State) :
    ruleCycles i (s.withInert n s.params.storePagePenalty) = ruleCycles i s := by
  unfold ruleCycles
  simp only [pageCrossed_withInert]
  rfl

/-- The inert fields decide the count alone, and `STORE_PAGE_PENALTY` alone of them. -/
theorem exec_withInert {i : Instr} {s t : State} (h : exec i s = .next t) :
    ∃ m, exec i (s.withInert n p) = .next (t.withInert m p) ∧ (p = s.params.storePagePenalty → m = t.lastCycles) := by
  rcases exec_cases i s with ⟨op, -, hexec⟩ | ⟨hi, haccepts, -, -, k, hcycles, hexec⟩ | ⟨k, access, info, u, -, -, -, hexec⟩
  · rw [hexec] at h; cases h
  · rw [hexec] at h
    obtain rfl := Host.Outcome.next.inj h
    obtain ⟨m, r, hr, hscript, hm⟩ := exec_runs i (s.withInert n p) hi
    rw [ruleAccesses_withInert] at hscript
    refine ⟨some m, ?_, fun hp => ?_⟩
    · rw [hr, hscript.finish_ok haccepts, finalState_withInert]
      rfl
    · rw [hp, ruleCycles_withInert_self, hcycles] at hm
      exact hm.symm
  · rw [hexec] at h; cases h

/-- No instruction's effect depends on the last count. -/
theorem finalState_setLastCycles (i : Instr) (s : State) : finalState i (s.setLastCycles n) = (finalState i s).setLastCycles n := by
  have hparams : (finalState i s).params = s.params := by
    by_cases hi : i.mnemonic = none
    · simp only [finalState, hi]
    · obtain ⟨m, r, -, hscript, -⟩ := exec_runs i s hi
      exact hscript.advances.params
  have h : finalState i (s.setLastCycles n) = (finalState i s).withInert n s.params.storePagePenalty :=
    finalState_withInert n s.params.storePagePenalty i s
  rw [h, ← hparams]
  rfl

/-! ### Interrupt entry -/

theorem interruptEntry_withInert {kind : InterruptKind} {s t : State} (h : interruptEntry kind s = .next t) :
    ∃ m, interruptEntry kind (s.withInert n p) = .next (t.withInert m p) ∧ m = t.lastCycles := by
  rcases interruptEntry_cases kind s with ⟨haccepts, hentry⟩ | ⟨k, access, info, u, -, -, -, hentry⟩
  · rw [hentry] at h
    obtain rfl := Host.Outcome.next.inj h
    refine ⟨some 7, ?_, rfl⟩
    have hlatch : (s.withInert n p).setNmiPending (kind.latch (s.withInert n p)) = (s.setNmiPending (kind.latch s)).withInert n p := by
      cases kind <;> rfl
    have hscript := Script.entry kind (s.withInert n p)
    rw [hlatch, entered_withInert] at hscript
    rw [interruptEntry_eq, hlatch, hscript.finish_ok haccepts]
    rfl
  · rw [hentry] at h; cases h

/-! ### A step -/

theorem fetched_withInert : ∀ (k : Nat) (s : State), (s.withInert n p).fetched k = (s.fetched k).withInert n p
  | 0, _ => rfl
  | k + 1, s => fetched_withInert k ((s.afterRead s.pc).setPc (s.pc + 1))

/-- A running core looks at the interrupt inputs and I only. -/
theorem boundary_withInert {s : State} (h : s.runState = .running) : boundary (s.withInert n p) = boundary s := by
  simp only [boundary, h, show (s.withInert n p).runState = .running from h]
  rfl

/-- The inert fields decide the count of a completed step alone, and `STORE_PAGE_PENALTY` alone of them. -/
theorem step_withInert {s t : State} (h : step s = .next t) :
    ∃ m, step (s.withInert n p) = .next (t.withInert m p) ∧ (p = s.params.storePagePenalty → m = t.lastCycles) := by
  obtain ⟨hrun, -⟩ := step_next h
  have hinert := boundary_withInert n p hrun
  cases hb : boundary s with
  | fault f =>
    rw [step_of_boundary_fault hb] at h
    cases h
  | interrupt kind =>
    rw [step_of_boundary_interrupt hb] at h
    obtain ⟨m, hentry, hm⟩ := interruptEntry_withInert n p h
    exact ⟨m, (step_of_boundary_interrupt (hinert.trans hb)).trans hentry, fun _ => hm⟩
  | instruction =>
    obtain ⟨i, rest, hd, ⟨haccepts, hstep⟩ | ⟨k, access, info, u, -, -, -, hstep⟩⟩ := step_instruction hb
    · rw [hstep] at h
      obtain ⟨m, hexec, hm⟩ := exec_withInert n p h
      refine ⟨m, ?_, fun hp => hm (hp.trans ?_)⟩
      · rw [step_of_decode (hinert.trans hb) hd haccepts, ← hexec, ← fetched_withInert]
        rfl
      · rw [(advances_fetched i.fetchLength (s.beginOp .step)).params]
        rfl
    · rw [hstep] at h
      cases h

end

/-! ### The statements -/

/-- Settles O21: with the parameters as they are the step answers the same count too. -/
theorem cycleCountIsNeverRead : Obligations.CycleCountIsNeverRead := by
  unfold Obligations.CycleCountIsNeverRead
  intro s t n h
  obtain ⟨m, hstep, hm⟩ := step_withInert n s.params.storePagePenalty h
  obtain ⟨-, latch, -, hadv⟩ := step_next h
  have hparams : t.params = s.params := hadv.params
  have hself : t.withInert t.lastCycles s.params.storePagePenalty = t := by rw [← hparams]; rfl
  rw [hm rfl, hself] at hstep
  exact hstep

/-- Settles O22: only the count differs (`step_withInert`). -/
theorem storePenaltyAffectsOnlyTheCount : Obligations.StorePenaltyAffectsOnlyTheCount := by
  unfold Obligations.StorePenaltyAffectsOnlyTheCount
  intro s t p h
  obtain ⟨m, hstep, -⟩ := step_withInert s.lastCycles p h
  exact ⟨m, hstep⟩

end Sys2Proof.Machine
end

section
/-! PROOFS. The stack: push and pull, PHP and PLP, JSR, interrupt entry, BRK and RTI (spec R14, R241, R243, R261, R263, R264, R404). -/

namespace Sys2Proof.Machine

/-! ### Push and pull (R14) -/

/-- Settles O25: the scripts of a push and a pull, with the location of SP in numbers. -/
theorem pushAndPull : Obligations.PushAndPull := by
  unfold Obligations.PushAndPull
  intro s hinv haccepts
  rw [stackLocation_sp, stackLocation_add_one]
  refine ⟨fun v => ?_, ?_⟩
  · have hpush := Script.push v s
    obtain ⟨hstored, hsame⟩ := stored_pushed v (State.inv_wf hinv)
    exact ⟨_, hpush.ok haccepts, toNat_decrement s.sp, hstored, hsame, hpush.accessed, frame_pushed (by decide) v s, s.pushed_pc v⟩
  · have hpull := Script.pull s
    exact ⟨_, hpull.ok haccepts, toNat_increment s.sp, fun _ _ => rfl, hpull.accessed, frame_pulled (by decide) s, rfl⟩

/-! ### PHP and PLP (R241, R243) -/

theorem flag_plpEffect (v : Byte) (s : State) (f : Flag) :
    (plpEffect v s).flag f = if f = .u then true else if f = .b then s.flag .b else v.getLsbD f.bit := by
  rw [plpEffect, State.flag_setStatus, getLsbD_pulledStatus]
  cases f <;> simp [State.flag]

theorem ne_of_not_mem_b_u {f : Flag} (h : f ∉ [Flag.b, .u]) : f ≠ .b ∧ f ≠ .u := by simpa using h

/-- Every flag but B and U is pulled. -/
theorem flag_plpEffect_pulled {f : Flag} (h : f ∉ [Flag.b, .u]) (v : Byte) (s : State) : (plpEffect v s).flag f = v.getLsbD f.bit := by
  obtain ⟨hb, hu⟩ := ne_of_not_mem_b_u h
  rw [flag_plpEffect, if_neg hu, if_neg hb]

/-- A pull of P writes every flag but B and U. -/
theorem frame_plpEffect {regs : List Reg} (v : Byte) (s : State) : Frame regs [.n, .v, .d, .i, .z, .c] s (plpEffect v s) := by
  refine ⟨fun r _ => by cases r <;> rfl, fun f hf => ?_, rfl, rfl, rfl, rfl, rfl⟩
  rw [flag_plpEffect]
  cases f with
  | b => rfl
  | u => rw [State.flag_u]; rfl
  | c | z | i | d | v | n => exact absurd (by decide) hf

theorem finalState_php {i : Instr} (hi : i.mnemonic = some .php) (s : State) :
    finalState i s = s.pushed (softwareStatus s.status) := by
  simp only [finalState, hi]

theorem finalState_plp {i : Instr} (hi : i.mnemonic = some .plp) (s : State) :
    finalState i s = plpEffect s.pulledByte s.pulled := by
  simp only [finalState, hi]

/-- Settles O47: PHP is a push of the status with B and U set (`pushResult`); PLP is a pull, whose byte goes to P (`flag_plpEffect`). -/
theorem statusOnTheStack : Obligations.StatusOnTheStack := by
  unfold Obligations.StatusOnTheStack
  refine ⟨?_, ?_⟩
  · refine accessRuleOf_of_finalState (by decide) fun i s n hi hinv => pushResult hinv _ (some n) _ ?_
    rw [finalState_php hi]
    rfl
  · refine accessRuleOf_of_finalState (by decide) fun i s n hi _ => ?_
    rw [finalState_plp hi]
    have hframe : Frame [.sp] [.n, .v, .d, .i, .z, .c] s (plpEffect s.pulledByte s.pulled) :=
      (frame_pulled (by decide) s).trans (frame_plpEffect _ _)
    refine ⟨rfl, fun f hf => ?_, State.flag_u _, frame_setLastCycles.mpr hframe, rfl, fun _ _ => rfl⟩
    rw [State.setLastCycles_flag, flag_plpEffect_pulled hf, pulledByte_eq]

/-! ### A status byte that holds the flags of a state -/

/-- The byte holds every flag of `s` but B and U, which a pull does not take from it. -/
def Saves (v : Byte) (s : State) : Prop := ∀ f, f ∉ [Flag.b, .u] → v.getLsbD f.bit = s.flag f

theorem saves_softwareStatus (s : State) : Saves (softwareStatus s.status) s := by
  intro f hf
  obtain ⟨hb, hu⟩ := ne_of_not_mem_b_u hf
  simp [getLsbD_softwareStatus, hb, hu, State.flag]

theorem saves_hardwareStatus (s : State) : Saves (hardwareStatus s.status) s := by
  intro f hf
  obtain ⟨hb, hu⟩ := ne_of_not_mem_b_u hf
  simp [getLsbD_hardwareStatus, hb, hu, State.flag]

/-- Where the pulled flags are those of `s`, and Break was kept, the status is that of `s`. -/
theorem status_eq_of_saves {v : Byte} {s t : State} (hv : Saves v s) (ht : ∀ f, f ∉ [Flag.b, .u] → t.flag f = v.getLsbD f.bit)
    (hb : t.flag .b = s.flag .b) : t.status = s.status := by
  refine status_eq_of_flags fun f => ?_
  cases f with
  | b => exact hb
  | u => rw [State.flag_u, State.flag_u]
  | c | z | i | d | v | n => rw [ht _ (by decide), hv _ (by decide)]

/-! ### PHP and then PLP over the plain memory -/

/-- Over the plain memory a pull after a push returns the byte pushed. -/
theorem pulledByte_pushed {s : State} (hinv : s.inv = true) (hplain : s.plainBus) (v : Byte) : (s.pushed v).pulledByte = v := by
  obtain ⟨hstored, -⟩ := stored_pushed v (State.inv_wf hinv)
  have hsp : (s.pushed v).sp + 1 = s.sp := BitVec.sub_add_cancel _ _
  rw [State.pulledByte, answer_plain (plainBus_pushed hplain v), hsp]
  exact hstored.1 (storesAt_plain hplain 0)

/-- Over the plain memory one instruction after another completes, each in its final state but for the counts. -/
theorem exec_exec_plain {i j : Instr} {s : State} (hi : i.mnemonic ≠ none) (hj : j.mnemonic ≠ none) (hplain : s.plainBus)
    (hplain' : (finalState i s).plainBus) :
    ∃ m n, exec i s = .next ((finalState i s).setLastCycles (some m)) ∧
      exec j ((finalState i s).setLastCycles (some m)) = .next ((finalState j (finalState i s)).setLastCycles (some n)) := by
  obtain ⟨m, hexec⟩ := exec_plain hi hplain
  obtain ⟨n, hexec'⟩ := exec_plain (s := (finalState i s).setLastCycles (some m)) hj hplain'
  rw [finalState_setLastCycles] at hexec'
  exact ⟨m, n, hexec, hexec'⟩

/-- The state that PHP and then PLP leave, but for the counts. -/
def State.statusRoundTrip (s : State) : State :=
  plpEffect (s.pushed (softwareStatus s.status)).pulledByte (s.pushed (softwareStatus s.status)).pulled

theorem frame_statusRoundTrip (s : State) : Frame [.sp] [.n, .v, .d, .i, .z, .c] s s.statusRoundTrip :=
  ((frame_pushed (by decide) _ s).trans (frame_pulled (by decide) _)).trans (frame_plpEffect _ _)

theorem status_statusRoundTrip {s : State} (hinv : s.inv = true) (hplain : s.plainBus) : s.statusRoundTrip.status = s.status := by
  obtain ⟨-, hflag, -⟩ := frame_statusRoundTrip s
  refine status_eq_of_saves (saves_softwareStatus s) (fun f hf => ?_) (hflag .b (by decide))
  rw [State.statusRoundTrip, flag_plpEffect_pulled hf, pulledByte_pushed hinv hplain]

theorem sp_statusRoundTrip (s : State) : s.statusRoundTrip.sp = s.sp := BitVec.sub_add_cancel s.sp 1

theorem pc_statusRoundTrip (s : State) : s.statusRoundTrip.pc = s.pc := by
  rw [State.statusRoundTrip, plpEffect, State.setStatus_pc, State.pulled_pc, State.pushed_pc]

theorem sameMemory_statusRoundTrip {s : State} (hinv : s.inv = true) : SameMemoryBut [stackLocation s.sp.toNat] s s.statusRoundTrip := by
  obtain ⟨-, hsame⟩ := stored_pushed (softwareStatus s.status) (State.inv_wf hinv)
  rw [stackLocation_sp]
  refine hsame.congr fun b => ?_
  rw [State.statusRoundTrip, plpEffect, State.setStatus_byteAt, State.pulled_byteAt]

/-- Settles O48: PLP pulls the byte that PHP pushed, which saves the flags, and SP is where it was. -/
theorem pushThenPullStatus : Obligations.PushThenPullStatus := by
  unfold Obligations.PushThenPullStatus
  intro s hinv hplain
  obtain ⟨m, n, hphp, hplp⟩ :=
    exec_exec_plain (i := .php) (j := .plp) (Option.some_ne_none _) (Option.some_ne_none _) hplain (plainBus_pushed hplain _)
  have hstatus := status_statusRoundTrip hinv hplain
  obtain ⟨hreg, -, hrest⟩ := (frame_statusRoundTrip s).of_sp (sp_statusRoundTrip s)
  have hframe : Frame [] [] s s.statusRoundTrip := ⟨hreg, fun f _ => by rw [State.flag, hstatus, ← State.flag], hrest⟩
  rw [finalState_php rfl, finalState_plp rfl] at hplp
  exact ⟨_, _, hphp, hplp, hstatus, frame_setLastCycles.mpr hframe, pc_statusRoundTrip s,
    sameMemoryBut_setLastCycles.mpr (sameMemory_statusRoundTrip hinv)⟩

/-! ### JSR (R261) -/

theorem eq_jsr_of_operand {i : Instr} {addr : Word} (hi : i.mnemonic = some .jsr) (ho : i.operand = .source (.mem (.abs addr))) :
    i = .jsr addr := by
  cases i with
  | jsr w => cases ho; rfl
  | _ => cases hi

/-- Settles O50: two pushes and a jump (`calledAt`). -/
theorem subroutineCall : Obligations.SubroutineCall := by
  unfold Obligations.SubroutineCall
  refine accessRuleOf_of_finalState (by decide) fun i s n hi hinv addr ho => ?_
  rw [eq_jsr_of_operand hi ho, finalState_jsr, stackLocation_sp, stackLocation_sub_one]
  obtain ⟨hhigh, hlow, hsame⟩ := stored_pushed_two (hiByte (s.pc - 1)) (loByte (s.pc - 1)) (State.inv_wf hinv)
  have hsp : s.sp - 1 - 1 = s.sp - 2 := by bv_omega
  exact ⟨calledAt_pc (s := s) addr, hsp, stored_setLastCycles.mpr hhigh, stored_setLastCycles.mpr hlow,
    sameMemoryBut_setLastCycles.mpr hsame, frame_setLastCycles.mpr (frame_calledAt addr)⟩

/-! ### Interrupt entry (R404, R406) -/

theorem hiByte_vector (kind : InterruptKind) : hiByte kind.vector ≠ 0x01#8 ∧ hiByte (kind.vector + 1) ≠ 0x01#8 := by
  cases kind <;> decide

/-- What an answer is depends on the bus alone. -/
theorem answer_congr {s s' : State} (h : s'.bus = s.bus) (k : Nat) (addr : Word) : s'.answer k addr = s.answer k addr := by
  unfold State.answer State.byteAt
  rw [h]

/-- The state that an entry leaves from `s'`, in terms of a state `s` with the same bus and SP. -/
theorem entryResult {s s' : State} {status : Byte} {vector : Word} (hinv : s.inv = true) (hbus : s'.bus = s.bus) (hsp : s'.sp = s.sp)
    (hv : hiByte vector ≠ 0x01#8) (hv' : hiByte (vector + 1) ≠ 0x01#8) (n : Option Nat) :
    ∀ t, t = (s'.entered status vector).setLastCycles n →
      t.sp = s.sp - 3 ∧ t.flag .i = true ∧ t.pc = mkWord (s.answer 4 (vector + 1)) (s.answer 3 vector) ∧
      Stored 0 (stackLocation s.sp.toNat) (hiByte s'.pc) s t ∧
      Stored 1 (stackLocation (s.sp.toNat + 255)) (loByte s'.pc) s t ∧
      Stored 2 (stackLocation (s.sp.toNat + 254)) status s t ∧
      SameMemoryBut [stackLocation s.sp.toNat, stackLocation (s.sp.toNat + 255), stackLocation (s.sp.toNat + 254)] s t ∧
      Frame [.sp] [.i] s' t := by
  rintro _ rfl
  obtain ⟨hsp', hi, hpc, h0, h1, h2, hsame, hframe⟩ := entered_spec (s := s') status vector hv hv' (by rw [hbus]; exact State.inv_wf hinv)
  rw [hsp] at hsp' h0 h1 h2 hsame
  rw [answer_congr hbus, answer_congr hbus] at hpc
  rw [stackLocation_sp, stackLocation_sub_one, stackLocation_sub_two, State.setLastCycles_sp, State.setLastCycles_flag,
    State.setLastCycles_pc]
  exact ⟨hsp', hi, hpc, stored_setLastCycles.mpr (h0.congr_left hbus), stored_setLastCycles.mpr (h1.congr_left hbus),
    stored_setLastCycles.mpr (h2.congr_left hbus), sameMemoryBut_setLastCycles.mpr (hsame.congr_left hbus),
    frame_setLastCycles.mpr hframe⟩

/-- The state that an entry leaves whose accesses the bus takes. -/
def State.interrupted (kind : InterruptKind) (s : State) : State :=
  ((s.setNmiPending (kind.latch s)).entered (hardwareStatus s.status) kind.vector).setLastCycles (some 7)

theorem interruptEntry_of_accepts {kind : InterruptKind} {s : State} (h : s.busAccepts 5 = true) :
    interruptEntry kind s = .next (s.interrupted kind) := by
  rw [interruptEntry_eq]
  exact (Script.entry kind s).finish_ok h

theorem accessed_interrupted (kind : InterruptKind) (s : State) : Accessed (entryAccesses kind s) s (s.interrupted kind) :=
  (Script.entry kind s).accessed

theorem interrupted_spec (kind : InterruptKind) {s : State} (hinv : s.inv = true) :
    ∀ t, t = s.interrupted kind →
      t.sp = s.sp - 3 ∧ t.flag .i = true ∧ t.pc = mkWord (s.answer 4 (kind.vector + 1)) (s.answer 3 kind.vector) ∧
      Stored 0 (stackLocation s.sp.toNat) (hiByte s.pc) s t ∧
      Stored 1 (stackLocation (s.sp.toNat + 255)) (loByte s.pc) s t ∧
      Stored 2 (stackLocation (s.sp.toNat + 254)) (hardwareStatus s.status) s t ∧
      SameMemoryBut [stackLocation s.sp.toNat, stackLocation (s.sp.toNat + 255), stackLocation (s.sp.toNat + 254)] s t ∧
      Frame [.sp] [.i] (s.setNmiPending (kind.latch s)) t := by
  obtain ⟨hv, hv'⟩ := hiByte_vector kind
  exact entryResult (s' := s.setNmiPending (kind.latch s)) hinv rfl rfl hv hv' (some 7)

/-- Settles O7: an entry is three pushes and the read of its vector, or ends at the first of these that the bus rejects. -/
theorem interruptEntryEffect : Obligations.InterruptEntryEffect := by
  unfold Obligations.InterruptEntryEffect
  refine ⟨fun s kind hinv haccepts => ?_, fun s kind k access info haccess hrejects => ?_⟩
  · obtain ⟨hsp, hi, hpc, h0, h1, h2, hsame, hreg, hflag, hrun, hirq, hnmi, hparams, hfree⟩ := interrupted_spec kind hinv _ rfl
    have haccessed := accessed_interrupted kind s
    have hflags : ∀ f, f ≠ .i → (s.interrupted kind).flag f = s.flag f := fun f hf => hflag f (List.mem_singleton.not.mpr hf)
    refine ⟨s.interrupted kind, interruptEntry_of_accepts haccepts, ?_⟩
    cases kind <;>
      exact ⟨hpc, hsp, hi, hnmi, h0, h1, h2, hsame, haccessed, hreg .a (by decide), hreg .x (by decide), hreg .y (by decide), hflags,
        hrun, hirq, hparams, hfree, rfl⟩
  · have haccess' : (entryAccesses kind s)[k]? = some access := by cases kind <;> exact haccess
    obtain ⟨u, hu, -⟩ := (Script.entry kind s).rejected k access info haccess' hrejects
    exact ⟨_, by rw [interruptEntry_eq, hu, Res.finish_busFault]⟩

/-! ### BRK (R263) -/

theorem finalState_brk {i : Instr} (hi : i.mnemonic = some .brk) (s : State) :
    finalState i s = (s.setPc (s.pc + 1)).entered (softwareStatus s.status) irqVector := by
  simp only [finalState, hi]

/-- Settles O53: BRK enters through the IRQ vector from the address after its padding byte (`entryResult`). -/
theorem breakInstruction : Obligations.BreakInstruction := by
  unfold Obligations.BreakInstruction
  refine accessRuleOf_of_finalState (by decide) fun i s n hi hinv => ?_
  rw [finalState_brk hi]
  obtain ⟨hsp, hi, hpc, h0, h1, h2, hsame, hframe⟩ :=
    entryResult (s' := s.setPc (s.pc + 1)) (status := softwareStatus s.status) (vector := irqVector) hinv rfl rfl (by decide) (by decide)
      (some n) _ rfl
  exact ⟨hsp, hi, hpc, h0, h1, h2, hsame, frame_setPc_left.mp hframe⟩

/-! ### RTI (R264) -/

theorem finalState_rti {i : Instr} (hi : i.mnemonic = some .rti) (s : State) : finalState i s = s.returned := by
  simp only [finalState, hi]

theorem plainBus_entered {s : State} (h : s.plainBus) (status : Byte) (vector : Word) : (s.entered status vector).plainBus := by
  rw [State.plainBus, (Script.takeException status vector s).replies, show s.bus.replies = [] from h, List.drop_nil]

theorem plainBus_interrupted {s : State} (h : s.plainBus) (kind : InterruptKind) : (s.interrupted kind).plainBus := by
  rw [State.plainBus, State.interrupted, State.setLastCycles_bus]
  exact plainBus_entered (s := s.setNmiPending (kind.latch s)) h _ _

theorem returned_interrupted (kind : InterruptKind) (s : State) :
    (s.interrupted kind).returned =
      ((s.setNmiPending (kind.latch s)).entered (hardwareStatus s.status) kind.vector).returned.setLastCycles (some 7) :=
  finalState_setLastCycles (some 7) .rti _

/-- Over the plain memory the return from an entry that saved the flags restores P, SP, PC, and A, X and Y are untouched. -/
theorem entered_returned {s : State} {status : Byte} {vector : Word} (hinv : s.inv = true) (hplain : s.plainBus)
    (hv : hiByte vector ≠ 0x01#8) (hv' : hiByte (vector + 1) ≠ 0x01#8) (hsaves : Saves status s) :
    (s.entered status vector).returned.status = s.status ∧ (s.entered status vector).returned.sp = s.sp ∧
      (s.entered status vector).returned.pc = s.pc ∧ (s.entered status vector).returned.a = s.a ∧
      (s.entered status vector).returned.x = s.x ∧ (s.entered status vector).returned.y = s.y := by
  obtain ⟨hsp, -, -, h0, h1, h2, -, hreg, hflag, -⟩ := entered_spec status vector hv hv' (State.inv_wf hinv)
  obtain ⟨hsp', hflag', -, hpc', ⟨hreg', hkept, -⟩, -⟩ := returned_spec (s := s.entered status vector)
  have hbus := plainBus_entered hplain status vector
  have hstores := storesAt_plain hplain
  have e1 : s.sp - 3 + 1 = s.sp - 1 - 1 := by bv_omega
  have e2 : s.sp - 1 - 1 + 1 = s.sp - 1 := BitVec.sub_add_cancel _ _
  have e3 : s.sp - 1 + 1 = s.sp := BitVec.sub_add_cancel _ _
  simp only [hsp, e1, e2, e3, answer_plain hbus, h0.1 (hstores 0), h1.1 (hstores 1), h2.1 (hstores 2), mkWord_bytes] at hflag' hpc'
  refine ⟨status_eq_of_saves hsaves hflag' ((hkept .b (by decide)).trans (hflag .b (by decide))), ?_, hpc',
    (hreg' .a (by decide)).trans (hreg .a (by decide)), (hreg' .x (by decide)).trans (hreg .x (by decide)),
    (hreg' .y (by decide)).trans (hreg .y (by decide))⟩
  rw [hsp', hsp, BitVec.sub_add_cancel]

/-- Settles O54: RTI is `returned_spec`, and it undoes an interrupt entry and a BRK by `entered_returned`. -/
theorem returnFromInterrupt : Obligations.ReturnFromInterrupt := by
  unfold Obligations.ReturnFromInterrupt
  refine ⟨?_, fun s kind hinv hplain => ?_, fun s hinv hplain => ?_⟩
  · refine accessRuleOf_of_finalState (by decide) fun i s n hi _ => ?_
    rw [finalState_rti hi, stackLocation_add_one, stackLocation_add_two, stackLocation_add_three]
    obtain ⟨hsp, hflag, hu, hpc, hframe, hsame⟩ := returned_spec (s := s)
    exact ⟨hsp, hflag, hu, hpc, frame_setLastCycles.mpr hframe, sameMemoryBut_setLastCycles.mpr hsame⟩
  · obtain ⟨hv, hv'⟩ := hiByte_vector kind
    obtain ⟨n, hrti⟩ := exec_plain (i := .rti) (Option.some_ne_none _) (plainBus_interrupted hplain kind)
    rw [finalState_rti rfl, returned_interrupted] at hrti
    refine ⟨_, _, interruptEntry_of_accepts (busAccepts_plain hplain 5), hrti, ?_⟩
    simp only [State.setLastCycles_status, State.setLastCycles_sp, State.setLastCycles_pc, State.setLastCycles_a, State.setLastCycles_x,
      State.setLastCycles_y]
    exact entered_returned (s := s.setNmiPending (kind.latch s)) hinv hplain hv hv' (saves_hardwareStatus s)
  · obtain ⟨m, n, hbrk, hrti⟩ := exec_exec_plain (i := .brk) (j := .rti) (Option.some_ne_none _) (Option.some_ne_none _) hplain
      (plainBus_entered (s := s.setPc (s.pc + 1)) hplain _ _)
    rw [finalState_brk rfl, finalState_rti rfl] at hrti
    obtain ⟨hstatus, hsp, hpc, -⟩ := entered_returned (s := s.setPc (s.pc + 1)) (vector := irqVector) hinv hplain (by decide) (by decide)
      (saves_softwareStatus s)
    refine ⟨_, _, hbrk, hrti, ?_⟩
    simp only [State.setLastCycles_status, State.setLastCycles_sp, State.setLastCycles_pc]
    exact ⟨hstatus, hsp, hpc⟩

end Sys2Proof.Machine
end

section
/-! PROOFS. What an instruction answers (spec R79, R113, R401, R407), STA (R323), and the flag instructions with the interrupts that they
let in (R340 to R347, R457). -/

namespace Sys2Proof.Machine

/-! ### What an instruction answers -/

/-- Settles O12: where the bus rejects none of its accesses the script of the instruction goes through. -/
theorem everyLegalInstructionCompletes : Obligations.EveryLegalInstructionCompletes := by
  unfold Obligations.EveryLegalInstructionCompletes
  intro i s hi haccepts
  obtain ⟨n, r, hexec, hscript, -⟩ := exec_runs i s hi
  exact ⟨_, by rw [hexec, hscript.finish_ok haccepts]⟩

/-- An illegal opcode makes no access. -/
theorem mnemonic_ne_none_of_access {i : Instr} {s : State} {k : Nat} {access : Access} (h : (ruleAccesses i s)[k]? = some access) :
    i.mnemonic ≠ none := by
  intro hi
  simp [ruleAccesses, hi] at h

/-- Settles O13: the script of the instruction ends at the first rejected access, and the fault's halt makes no further one. -/
theorem firstRejectedAccessIsTheFault : Obligations.FirstRejectedAccessIsTheFault := by
  unfold Obligations.FirstRejectedAccessIsTheFault
  intro i s k access info haccess hrejects
  obtain ⟨n, r, hexec, hscript, -⟩ := exec_runs i s (mnemonic_ne_none_of_access haccess)
  obtain ⟨u, hu, hcut⟩ := hscript.rejected k access info haccess hrejects
  exact ⟨u.haltUnspecified (.busFault access.2 access.1 info), by rw [hexec, hu, Res.finish_busFault], hcut.accessed, rfl⟩

/-- A completed instruction: its accesses, what it leaves alone, and the state it ends in. -/
theorem exec_next {i : Instr} {s t : State} (h : exec i s = .next t) :
    Accessed (ruleAccesses i s) s t ∧ Advances s t ∧ ∃ n, t = (finalState i s).setLastCycles n := by
  rcases exec_cases i s with ⟨op, -, hexec⟩ | ⟨-, -, haccessed, hadv, n, -, hexec⟩ | ⟨k, access, info, u, -, -, -, hexec⟩
  · rw [hexec] at h; cases h
  · rw [hexec] at h
    cases h
    exact ⟨haccessed, hadv.trans (.setLastCycles _ _), some n, rfl⟩
  · rw [hexec] at h; cases h

/-- Settles O14: of all that `exec` can answer only a completed instruction is a next state (`exec_next`). -/
theorem accessesOfEachStep : Obligations.AccessesOfEachStep := by
  unfold Obligations.AccessesOfEachStep
  intro i s t h
  exact (exec_next h).1

/-! ### STA (R323) -/

theorem finalState_sta {i : Instr} (hi : i.mnemonic = some .sta) (s : State) : finalState i s = s.storedTo i s.a := by
  simp only [finalState, hi]

/-- Settles O34: a store of A, as it stands before the pointer is read (`storeResult`). -/
theorem storeAccumulator : Obligations.StoreAccumulator := by
  unfold Obligations.StoreAccumulator
  refine accessRuleOf_of_finalState (by decide) fun i s n hi hinv m hm => storeResult hinv hm s.a (some n) _ ?_
  rw [finalState_sta hi]

/-! ### The flag instructions (R340 to R346) -/

/-- The flag that a flag instruction writes, and the value it takes; none for any other mnemonic. -/
def flagWrite : Mnemonic → Option (Flag × Bool)
  | .clc => some (.c, false)
  | .cld => some (.d, false)
  | .cli => some (.i, false)
  | .clv => some (.v, false)
  | .sec => some (.c, true)
  | .sed => some (.d, true)
  | .sei => some (.i, true)
  | _ => none

section
variable {m : Mnemonic} {f : Flag} {v : Bool} {i : Instr}

theorem finalState_flagWrite (hw : flagWrite m = some (f, v)) (hi : i.mnemonic = some m) (s : State) :
    finalState i s = s.setFlag f v := by
  unfold flagWrite at hw
  split at hw
  case h_8 => cases hw
  all_goals
    cases hw
    simp only [finalState, hi]

theorem flagWrite_ne_u (hw : flagWrite m = some (f, v)) : f ≠ .u := by
  rintro rfl
  unfold flagWrite at hw
  split at hw <;> cases hw

/-- The rule of an instruction that writes `v` to the flag `f` and nothing else. -/
theorem ruleOf_flagWrite {forms : List (Byte × Mode × Nat × Penalty)} (hw : flagWrite m = some (f, v))
    (hforms : forms.Perm (formsOf m)) :
    RuleOf m forms (fun _ s t => t.flag f = v ∧ Frame [] [f] s t ∧ t.pc = s.pc ∧ SameMemoryBut [] s t) := by
  refine ruleOf_of_finalState hforms fun i s n hi _ => ?_
  rw [finalState_flagWrite hw hi]
  exact ⟨s.flag_setFlag_same (flagWrite_ne_u hw) v, frame_setLastCycles.mpr (frame_setFlag (List.mem_singleton.mpr rfl) v s), rfl,
    fun _ _ => rfl⟩

end

theorem finalState_nop {i : Instr} (hi : i.mnemonic = some .nop) (s : State) : finalState i s = s := by
  simp only [finalState, hi]

theorem frame_refl (s : State) : Frame [] [] s s := ⟨fun _ _ => rfl, fun _ _ => rfl, rfl, rfl, rfl, rfl, rfl⟩

/-- Settles O58: each is a write that `flagWrite` lists (`ruleOf_flagWrite`), NOP leaves the state as it is, and an illegal opcode is a
fault. -/
theorem flagInstructions : Obligations.FlagInstructions := by
  unfold Obligations.FlagInstructions
  refine ⟨ruleOf_flagWrite rfl (by decide), ruleOf_flagWrite rfl (by decide), ruleOf_flagWrite rfl (by decide),
    ruleOf_flagWrite rfl (by decide), ruleOf_flagWrite rfl (by decide), ?_, fun op _ s t h => by cases h⟩
  refine ruleOf_of_finalState (by decide) fun i s n hi _ => ?_
  rw [finalState_nop hi]
  exact ⟨frame_setLastCycles.mpr (frame_refl s), rfl, fun _ _ => rfl⟩

/-! ### The step after an instruction that writes I (R457) -/

/-- Settles O59: an instruction leaves the sequencer and the interrupt inputs alone, so that with the line asserted I alone decides
what the next step is; the entry after CLI is `interrupted_spec`. -/
theorem interruptMaskInstructions : Obligations.InterruptMaskInstructions := by
  unfold Obligations.InterruptMaskInstructions
  refine ⟨ruleOf_flagWrite rfl (by decide), ruleOf_flagWrite rfl (by decide), fun i s t _ hrun hirq hnmi hexec => ?_⟩
  obtain ⟨-, hadv, n, ht⟩ := exec_next hexec
  have hrun' := hadv.runState.trans hrun
  have hirq' := hadv.irqLine.trans hirq
  have hnmi' := hadv.nmiPending.trans hnmi
  refine ⟨step_irq hrun' hnmi' hirq', fun hi u hstep => ?_, fun hcli hinv haccepts => ?_⟩
  · obtain ⟨accesses, haccessed⟩ := step_reads_pc_first (boundary_instruction hrun' hnmi' (.inr hi)) (.inl hstep)
    exact haccessed.first
  · subst hcli
    rw [finalState_flagWrite rfl rfl] at ht
    subst ht
    have hi : ((s.setFlag .i false).setLastCycles n).flag .i = false := s.flag_setFlag_same (by decide) false
    obtain ⟨-, -, -, hhigh, hlow, -⟩ :=
      interrupted_spec .irq (s := ((s.setFlag .i false).setLastCycles n).beginOp .step) (hadv.inv hinv) _ rfl
    exact ⟨_, (step_irq hrun' hnmi' hirq' hi).trans (interruptEntry_of_accepts haccepts), hhigh, hlow⟩

end Sys2Proof.Machine
end

section
/-! PROOFS. ADC and SBC in decimal mode (spec R151, R153, R154). -/

namespace Sys2Proof.Machine

/-! ### The final states -/

theorem finalState_adc_decimal {i : Instr} {s : State} (hi : i.mnemonic = some .adc) (hd : s.flag .d = true) :
    finalState i s =
      (s.afterOperand i).setDecimalResult (operandByte i s) (addDecimal s.a (operandByte i s) (s.flag .c)) := by
  simp [finalState, hi, adcEffect, hd]

theorem finalState_sbc_decimal {i : Instr} {s : State} (hi : i.mnemonic = some .sbc) (hd : s.flag .d = true) :
    finalState i s =
      (s.afterOperand i).setDecimalResult (operandByte i s) (subDecimal s.a (operandByte i s) (s.flag .c)) := by
  simp [finalState, hi, sbcEffect, hd]

theorem setDecimalResult_nmos {s : State} (h : s.params.decimalModel = .nmos) (m : Byte) (r : AluResult) :
    s.setDecimalResult m r = s.setAluResult r := by
  simp only [State.setDecimalResult, h]

theorem setDecimalResult_validBcdOnly {s : State} (h : s.params.decimalModel = .validBcdOnly) (m : Byte) (r : AluResult) :
    s.setDecimalResult m r =
      (s.setAluResult (drawnResult s.a m r (Config.freeByte s.freeCount) (Config.freeByte (s.freeCount + 1)))).useFree 2 := by
  simp only [State.setDecimalResult, h]

/-! ### Under `nmos` (R151, R153) -/

/-- What a result of ADC or SBC leaves in A and in its four flags. -/
theorem aluResult_written (r : AluResult) (s : State) (n : Option Nat) :
    ∀ t, t = (s.setAluResult r).setLastCycles n →
      t.a = r.value ∧ t.flag .c = r.c ∧ t.flag .z = r.z ∧ t.flag .v = r.v ∧ t.flag .n = r.n := by
  rintro _ rfl
  exact ⟨rfl, by simp [State.flag_setAluResult], by simp [State.flag_setAluResult], by simp [State.flag_setAluResult],
    by simp [State.flag_setAluResult]⟩

/-- Z of a sum says that it is 0 modulo 256. -/
theorem ofNat_beq_zero (n : Nat) : (BitVec.ofNat 8 n == 0) = decide (n % 256 = 0) := by
  rw [beq_eq_decide, decide_eq_decide, ← BitVec.toNat_inj, BitVec.toNat_ofNat]
  rfl

theorem addDecimal_z (a m : Byte) (c : Bool) : (addDecimal a m c).z = decide ((a.toNat + m.toNat + carryNat c) % 256 = 0) :=
  ofNat_beq_zero _

/-- Settles O37: the result is `addDecimal`, whose value and C are R151's sums by definition and whose Z is `addDecimal_z`. -/
theorem addDecimalNmos : Obligations.AddDecimalNmos := by
  unfold Obligations.AddDecimalNmos
  refine accessRuleOf_of_finalState (by decide) fun i s n hi _ hd hmodel => ?_
  rw [finalState_adc_decimal hi hd, setDecimalResult_nmos (by rwa [State.afterOperand_params])]
  rintro _ _ _ _ _ rfl rfl rfl rfl rfl
  obtain ⟨ha, hc, hz, hv, hn⟩ := aluResult_written (addDecimal s.a (operandByte i s) (s.flag .c)) (s.afterOperand i) (some n) _ rfl
  refine ⟨ha, hc, hz.trans (addDecimal_z _ _ _), hn.trans (BitVec.msb_eq_getLsbD_last (w := 8) _), hv.trans ?_, aluResult_frame _ _ _ _⟩
  exact (Bool.decide_or _ _).symm

/-- Settles O38: the value is `subDecimalValue`, R153's by definition, and the flags are those of the binary difference. -/
theorem subtractDecimalNmos : Obligations.SubtractDecimalNmos := by
  unfold Obligations.SubtractDecimalNmos
  refine accessRuleOf_of_finalState (by decide) fun i s n hi _ hd hmodel => ?_
  rw [finalState_sbc_decimal hi hd, setDecimalResult_nmos (by rwa [State.afterOperand_params])]
  obtain ⟨ha, hc, hz, hv, hn⟩ := aluResult_written (subDecimal s.a (operandByte i s) (s.flag .c)) (s.afterOperand i) (some n) _ rfl
  refine ⟨?_, ?_, ?_, aluResult_frame _ _ _ _⟩
  · rintro _ _ _ _ rfl rfl rfl rfl
    exact ha
  · rintro _ rfl
    rw [← subBinary_value, ← subBinary_c]
    exact ⟨hc, hz, hn.trans (BitVec.msb_eq_getLsbD_last (w := 8) _)⟩
  · rintro _ rfl
    rw [← subBinary_v]
    exact hv

/-! ### Under `valid_bcd_only` (R154) -/

theorem drawnResult_of_bcd {a m : Byte} (ha : isBcd a = true) (hm : isBcd m = true) (r : AluResult) (value flags : Byte) :
    (drawnResult a m r value flags).value = r.value ∧ (drawnResult a m r value flags).c = r.c := by
  simp [drawnResult, ha, hm]

/-- The state a decimal ADC or SBC leaves under `valid_bcd_only` whose result under `nmos` is `r`. -/
theorem drawn_spec {i : Instr} {s : State} (hmodel : s.params.decimalModel = .validBcdOnly) (r : AluResult) (n : Option Nat) :
    ∀ t, t = ((s.afterOperand i).setDecimalResult (operandByte i s) r).setLastCycles n →
      (isBcd s.a = true → isBcd (operandByte i s) = true → t.a = r.value ∧ t.flag .c = r.c) ∧
      (∀ g, g ≠ .a → t.reg g = s.reg g) ∧ (∀ f, f ∉ [.c, .z, .v, .n] → t.flag f = s.flag f) ∧
      t.runState = s.runState ∧ t.irqLine = s.irqLine ∧ t.nmiPending = s.nmiPending ∧ t.params = s.params ∧ t.pc = s.pc ∧
      SameMemoryBut [] s t := by
  rintro _ rfl
  rw [setDecimalResult_validBcdOnly (by rwa [State.afterOperand_params]), State.afterOperand_a]
  generalize hdrawn : drawnResult s.a (operandByte i s) r _ _ = drawn
  obtain ⟨ha, hc, -⟩ := aluResult_written drawn (s.afterOperand i) n _ rfl
  obtain ⟨⟨hreg, hflag, hrun, hirq, hnmi, hparams, -⟩, hpc, hsame⟩ := aluResult_frame i drawn s n
  refine ⟨fun hba hbm => ?_, fun g hg => ?_, hflag, hrun, hirq, hnmi, hparams, hpc, hsame⟩
  · obtain ⟨hvalue, hcarry⟩ := drawnResult_of_bcd hba hbm r (Config.freeByte (s.afterOperand i).freeCount)
      (Config.freeByte ((s.afterOperand i).freeCount + 1))
    rw [hdrawn] at hvalue hcarry
    exact ⟨ha.trans hvalue, hc.trans hcarry⟩
  · rw [← hreg g (List.mem_singleton.not.mpr hg)]
    cases g <;> rfl

/-- Settles O40: both are a decimal result with draws (`drawn_spec`). -/
theorem decimalUnderValidBcdOnly : Obligations.DecimalUnderValidBcdOnly := by
  unfold Obligations.DecimalUnderValidBcdOnly
  refine ⟨?_, ?_⟩
  · refine accessRuleOf_of_finalState (by decide) fun i s n hi _ hd hmodel => drawn_spec hmodel _ (some n) _ ?_
    rw [finalState_adc_decimal hi hd]
  · refine accessRuleOf_of_finalState (by decide) fun i s n hi _ hd hmodel => drawn_spec hmodel _ (some n) _ ?_
    rw [finalState_sbc_decimal hi hd]

/-! ### Packed BCD (R151, R153) -/

theorem toNat_lowDigit (v : Byte) : (v &&& 0x0F#8).toNat = v.toNat % 16 := by
  rw [BitVec.toNat_and]
  exact Nat.and_two_pow_sub_one_eq_mod v.toNat 4

theorem toNat_highDigit (v : Byte) : (v &&& 0xF0#8).toNat = v.toNat / 16 * 16 := by
  have hv := v.isLt
  have hshift : v >>> 4 <<< 4 = v &&& 0xF0#8 := BitVec.shiftLeft_ushiftRight
  rw [← hshift, BitVec.toNat_shiftLeft, BitVec.toNat_ushiftRight, Nat.shiftRight_eq_div_pow, Nat.shiftLeft_eq]
  omega

theorem isBcd_iff (v : Byte) : isBcd v = true ↔ v.toNat % 16 ≤ 9 ∧ v.toNat / 16 ≤ 9 := by
  rw [isBcd, Bool.and_eq_true_iff, decide_eq_true_iff, decide_eq_true_iff, toNat_lowDigit]

/-- A byte of two decimal digits is packed BCD and stands for the number that they write. -/
theorem bcd_of_digits {v : Byte} {d1 d0 : Int} (hv : (v.toNat : Int) = 16 * d1 + d0) (h1 : 0 ≤ d1 ∧ d1 ≤ 9) (h0 : 0 ≤ d0 ∧ d0 ≤ 9) :
    isBcd v = true ∧ ((10 * (v.toNat / 16) + v.toNat % 16 : Nat) : Int) = 10 * d1 + d0 := by
  rw [isBcd_iff]
  omega

/-- The low digits of a sum: their decimal digit, and the carry into the high digits. -/
theorem addLowDigit_bcd {a m : Byte} {c : Bool} {l : Nat} (ha : isBcd a = true) (hm : isBcd m = true)
    (hl : l = a.toNat % 16 + m.toNat % 16 + carryNat c) : addLowDigit a m c = 16 * (l / 10) + l % 10 := by
  rw [isBcd_iff] at ha hm
  have hc := carryNat_le_one c
  simp only [addLowDigit, toNat_lowDigit, ← hl]
  split <;> omega

/-- The two decimal digits of a sum and its carry. -/
theorem addDecimal_digits {a m : Byte} {c : Bool} {l h : Nat} (ha : isBcd a = true) (hm : isBcd m = true)
    (hl : l = a.toNat % 16 + m.toNat % 16 + carryNat c) (hh : h = a.toNat / 16 + m.toNat / 16 + l / 10) :
    (addDecimal a m c).value.toNat = 16 * (h % 10) + l % 10 ∧ carryNat (addDecimal a m c).c = h / 10 := by
  have hlow := addLowDigit_bcd ha hm hl
  rw [isBcd_iff] at ha hm
  have hc := carryNat_le_one c
  have hsum : a.toNat / 16 * 16 + m.toNat / 16 * 16 + (16 * (l / 10) + l % 10) = 16 * h + l % 10 := by omega
  have hh20 : h < 20 := by omega
  simp only [addDecimal, hlow, toNat_highDigit, hsum, BitVec.toNat_ofNat]
  clear hsum hlow hh hl
  by_cases h10 : 10 ≤ h
  · rw [if_pos (by omega), carryNat, if_pos (by simp; omega)]
    omega
  · rw [if_neg (by omega), carryNat, if_neg (by simp; omega)]
    omega

/-- The low digits of a difference: their decimal digit, and the borrow from the high digits. -/
theorem subLowDigit_bcd {a m : Byte} {c : Bool} {l : Int} (ha : isBcd a = true) (hm : isBcd m = true)
    (hl : l = ((a.toNat % 16 : Nat) : Int) - (m.toNat % 16 : Nat) + carryNat c - 1) : subLowDigit a m c = 16 * (l / 10) + l % 10 := by
  rw [isBcd_iff] at ha hm
  have hc := carryNat_le_one c
  simp only [subLowDigit, toNat_lowDigit, ← hl]
  split <;> omega

/-- The two decimal digits of a difference and its borrow. -/
theorem subDecimal_digits {a m : Byte} {c : Bool} {l h : Int} (ha : isBcd a = true) (hm : isBcd m = true)
    (hl : l = ((a.toNat % 16 : Nat) : Int) - (m.toNat % 16 : Nat) + carryNat c - 1)
    (hh : h = ((a.toNat / 16 : Nat) : Int) - (m.toNat / 16 : Nat) + l / 10) :
    ((subDecimal a m c).value.toNat : Int) = 16 * (h % 10) + l % 10 ∧ (carryNat (subDecimal a m c).c : Int) = 1 + h / 10 := by
  have hlow := subLowDigit_bcd ha hm hl
  have hborrow : (subDecimal a m c).c = _ := subBinary_c a m c
  rw [isBcd_iff] at ha hm
  have hc := carryNat_le_one c
  have hdiff : ((a.toNat / 16 * 16 : Nat) : Int) - (m.toNat / 16 * 16 : Nat) + (16 * (l / 10) + l % 10) = 16 * h + l % 10 := by omega
  have hbinary : (a.toNat : Int) - m.toNat - (1 - carryNat c) ≥ 0 ↔ 0 ≤ h := by omega
  have hh10 : -10 ≤ h ∧ h < 10 := by omega
  rw [hborrow]
  simp only [subDecimal, subDecimalValue, hlow, toNat_highDigit, hdiff, hbinary, BitVec.toNat_ofInt]
  clear hborrow hbinary hdiff hlow hh hl
  by_cases h0 : 0 ≤ h
  · rw [if_neg (by omega), carryNat, if_pos (by simpa using h0)]
    omega
  · rw [if_pos (by omega), carryNat, if_neg (by simpa using h0)]
    omega

/-- The decimal sum of two BCD operands. -/
theorem addDecimal_bcd {a m : Byte} (c : Bool) (ha : isBcd a = true) (hm : isBcd m = true) :
    isBcd (addDecimal a m c).value = true ∧
      10 * ((addDecimal a m c).value.toNat / 16) + (addDecimal a m c).value.toNat % 16 + 100 * carryNat (addDecimal a m c).c =
        (10 * (a.toNat / 16) + a.toNat % 16) + (10 * (m.toNat / 16) + m.toNat % 16) + carryNat c := by
  obtain ⟨l, hl⟩ : ∃ l, l = a.toNat % 16 + m.toNat % 16 + carryNat c := ⟨_, rfl⟩
  obtain ⟨h, hh⟩ : ∃ h, h = a.toNat / 16 + m.toNat / 16 + l / 10 := ⟨_, rfl⟩
  obtain ⟨hdigits, hcarry⟩ := addDecimal_digits ha hm hl hh
  obtain ⟨hbcd, hvalue⟩ := bcd_of_digits (v := (addDecimal a m c).value) (d1 := (h % 10 : Nat)) (d0 := (l % 10 : Nat)) (by omega)
    (by omega) (by omega)
  rw [hcarry]
  exact ⟨hbcd, by omega⟩

/-- The decimal difference of two BCD operands. -/
theorem subDecimal_bcd {a m : Byte} (c : Bool) (ha : isBcd a = true) (hm : isBcd m = true) :
    isBcd (subDecimal a m c).value = true ∧
      ((10 * ((subDecimal a m c).value.toNat / 16) + (subDecimal a m c).value.toNat % 16 : Nat) : Int) -
          100 * (1 - carryNat (subDecimal a m c).c) =
        (10 * (a.toNat / 16) + a.toNat % 16 : Nat) - (10 * (m.toNat / 16) + m.toNat % 16 : Nat) - (1 - carryNat c) := by
  obtain ⟨l, hl⟩ : ∃ l : Int, l = ((a.toNat % 16 : Nat) : Int) - (m.toNat % 16 : Nat) + carryNat c - 1 := ⟨_, rfl⟩
  obtain ⟨h, hh⟩ : ∃ h : Int, h = ((a.toNat / 16 : Nat) : Int) - (m.toNat / 16 : Nat) + l / 10 := ⟨_, rfl⟩
  obtain ⟨hdigits, hborrow⟩ := subDecimal_digits ha hm hl hh
  obtain ⟨hbcd, hvalue⟩ := bcd_of_digits hdigits (by omega) (by omega)
  rw [hborrow, hvalue]
  exact ⟨hbcd, by omega⟩

/-- Settles O39: both digits of each result are decimal (`addDecimal_digits`, `subDecimal_digits`). -/
theorem decimalResultsOfBcdOperandsAreDecimal : Obligations.DecimalResultsOfBcdOperandsAreDecimal := by
  unfold Obligations.DecimalResultsOfBcdOperandsAreDecimal
  intro a m c ha hm value hvalue
  obtain ⟨hadd, hsum⟩ := addDecimal_bcd c ha hm
  obtain ⟨hsub, hdifference⟩ := subDecimal_bcd c ha hm
  simp only [hvalue]
  exact ⟨hadd, hsum, hsub, hdifference⟩

end Sys2Proof.Machine
end

section
/-! PROOFS. Reset and the host's other operations (spec R43, R45, R48, R49, R402, R403, R415, R450, R452). -/

namespace Sys2Proof.Machine

/-! ### Reset (R49, R450) -/

/-- A read changes the bus alone, rejected or not, and of the bus not the memory. -/
theorem busRead_eq_busFault_bus {addr a : Word} {kind : AccessKind} {info : BusInfo} {s t : State}
    (h : busRead addr s = .busFault a kind info t) : t = { s with bus := t.bus } ∧ t.bus.mem = s.bus.mem := by
  obtain ⟨-, -, -, rfl⟩ := busRead_eq_busFault h
  exact ⟨rfl, rfl⟩

/-- A word read that the bus rejects has changed the bus alone, and of the bus not the memory. -/
theorem busReadWord_eq_busFault_bus {addr a : Word} {kind : AccessKind} {info : BusInfo} {s t : State}
    (h : busReadWord addr s = .busFault a kind info t) : t = { s with bus := t.bus } ∧ t.bus.mem = s.bus.mem := by
  rcases Res.bind_eq_busFault.mp h with hlow | ⟨lo, u, hlow, hhigh⟩
  · exact busRead_eq_busFault_bus hlow
  · obtain rfl := busRead_eq_ok hlow
    rcases Res.bind_eq_busFault.mp hhigh with hhigh | ⟨hi, v, -, hpure⟩
    · obtain ⟨hbus, hmem⟩ := busRead_eq_busFault_bus hhigh
      exact ⟨hbus, hmem⟩
    · cases hpure

/-- P as reset sets it (R49). -/
theorem status_resetRegisters (s : State) : s.resetRegisters.status = 0x24#8 := (State.setStatus_status s _).trans (by decide)

/-- A rejected vector read leaves what reset set, halted with the record (R450). -/
theorem hostReset_rejected {s : State} {k : Nat} {info : BusInfo} {addr : Word} (h : s.busRejects k info)
    (hk : [(AccessKind.read, 0xFFFC#16), (.read, 0xFFFD#16)][k]? = some (.read, addr)) :
    ∃ u : State, hostReset s = .fault (.busFault addr .read info (u.haltReset (.busFault addr .read info))) ∧
      u = { (s.beginOp .reset).resetRegisters with bus := u.bus } ∧ u.bus.mem = s.bus.mem := by
  have hrejects : (s.beginOp .reset).resetRegisters.busRejects k info := h
  obtain ⟨u, hu, -⟩ := (Script.resetVector s).rejected k (.read, addr) info hk hrejects
  refine ⟨u, ?_, busReadWord_eq_busFault_bus hu⟩
  unfold hostReset
  simp only [hu, faultOf]

/-- Settles O28: a completed reset is its two reads, and a rejected one leaves what reset set (`hostReset_rejected`). -/
theorem resetSequence : Obligations.ResetSequence := by
  unfold Obligations.ResetSequence
  intro s
  refine ⟨fun h => ⟨_, hostReset_of_accepts h, ?_, fun _ _ => rfl, rfl, rfl⟩, fun k info addr h hk => ?_⟩
  · simp only [State.wasReset, State.setRunState_bus, State.setPc_bus, State.logAccess_history, answer_logAccess]
    rfl
  · have haccess : [(AccessKind.read, 0xFFFC#16), (.read, 0xFFFD#16)][k]? = some (.read, addr) := by
      rcases hk with ⟨rfl, rfl⟩ | ⟨rfl, rfl⟩ <;> rfl
    obtain ⟨u, hreset, hu, hmem⟩ := hostReset_rejected h haccess
    refine ⟨_, hreset, rfl, ?_⟩
    rw [hu]
    exact ⟨rfl, rfl, rfl, rfl, status_resetRegisters s, rfl, rfl, fun b _ => congrArg (fun mem => Memory.read mem b.toNat) hmem⟩

/-- Settles O27: the state that a completed reset leaves, field by field. -/
theorem resetLeavesTheTabulatedState : Obligations.ResetLeavesTheTabulatedState := by
  unfold Obligations.ResetLeavesTheTabulatedState
  exact ⟨fun s h => ⟨_, hostReset_of_accepts h, rfl, rfl, rfl, rfl, status_resetRegisters s, rfl, rfl, rfl, rfl, rfl⟩, rfl, rfl, rfl⟩

/-- Settles O29: over the empty plain memory both vector reads return 0x00, and reset overwrites every unspecified register. -/
theorem resetOfACreatedCoreIsTheResetState : Obligations.ResetOfACreatedCoreIsTheResetState := by
  unfold Obligations.ResetOfACreatedCoreIsTheResetState
  exact hostReset_of_accepts rfl

/-! ### The invariant (R43) -/

/-- Settles O16: no memory is listed, and P is 0x24. -/
theorem resetStateHasTheInvariant : Obligations.ResetStateHasTheInvariant := by
  unfold Obligations.ResetStateHasTheInvariant
  rfl

theorem inv_hostWrite (r : HostReg) (v : Word) {s : State} (h : s.inv = true) : (hostWrite r v s).inv = true := by
  cases r with
  | p => exact State.inv_iff.mpr ⟨State.inv_wf (s := s) h, State.setStatus_bit5 s _⟩
  | a | x | y | sp | pc => exact h

/-- The registers as reset sets them have U at 1. -/
theorem inv_resetRegisters {s : State} (h : s.inv = true) : (s.beginOp .reset).resetRegisters.inv = true :=
  State.inv_iff.mpr ⟨State.inv_wf (s := s) h, State.setStatus_bit5 s _⟩

theorem inv_wasReset {s : State} (h : s.inv = true) : s.wasReset.inv = true :=
  State.inv_iff.mpr ⟨State.inv_wf (s := s) h, State.setStatus_bit5 s 0x24#8⟩

theorem inv_haltReset {s : State} (r : FaultRecord) (h : s.inv = true) : (s.haltReset r).inv = true := h

/-- Settles O18: reset writes P by `setStatus` and no memory, and of the host's writes only that of P touches what the invariant is of. -/
theorem hostOperationsKeepTheInvariant : Obligations.HostOperationsKeepTheInvariant := by
  unfold Obligations.HostOperationsKeepTheInvariant
  refine ⟨State.inv_iff.mpr ⟨rfl, State.setStatus_bit5 State.created _⟩, fun s hinv => ?_⟩
  refine ⟨fun t h => ?_, fun addr kind info t h => ?_, fun level => hinv, hinv, fun r v => inv_hostWrite r v hinv⟩
  · rcases hostReset_cases s with ⟨-, hreset⟩ | ⟨k, access, info, u, -, -, -, hreset⟩
    · rw [hreset] at h
      rw [← Host.Outcome.next.inj h]
      exact inv_wasReset hinv
    · rw [hreset] at h; cases h
  · rcases hostReset_cases s with ⟨-, hreset⟩ | ⟨k, access, info, u, -, -, hcut, hreset⟩
    · rw [hreset] at h; cases h
    · rw [hreset] at h
      obtain ⟨-, -, -, hleft⟩ := Fault.busFault.inj (Host.Outcome.fault.inj h)
      rw [← hleft]
      exact inv_haltReset _ (hcut.advances.inv (inv_resetRegisters hinv))

/-! ### The host's registers and inputs (R43, R48, R402, R403) -/

theorem hostRead_hostWrite_ne {q r : HostReg} (h : q ≠ r) (v : Word) (s : State) : hostRead q (hostWrite r v s) = hostRead q s := by
  cases r with
  | a => cases q with | a => exact absurd rfl h | x | y | sp | pc | p => rfl
  | x => cases q with | x => exact absurd rfl h | a | y | sp | pc | p => rfl
  | y => cases q with | y => exact absurd rfl h | a | x | sp | pc | p => rfl
  | sp => cases q with | sp => exact absurd rfl h | a | x | y | pc | p => rfl
  | pc => cases q with | pc => exact absurd rfl h | a | x | y | sp | p => rfl
  | p => cases q with | p => exact absurd rfl h | a | x | y | sp | pc => rfl

/-- Settles O30: a write of P stores U at 1, every other write stores the value of its width, and none touches another field. -/
theorem hostAccessors : Obligations.HostAccessors := by
  unfold Obligations.HostAccessors
  intro s r v
  refine ⟨?_, fun q hq => hostRead_hostWrite_ne hq v s, ?_⟩
  · cases r with
    | p => simp only [hostRead, hostWrite, State.setStatus_status]
    | a | x | y | sp | pc => rfl
  · cases r <;> exact ⟨rfl, rfl, rfl, rfl, rfl⟩

theorem hostReset_unused {s t : State} (h : hostReset s = .next t) : t.p.getLsbD 5 = true := by
  rcases hostReset_cases s with ⟨-, hreset⟩ | ⟨k, access, info, u, -, -, -, hreset⟩
  · rw [hreset] at h
    cases h
    exact State.setStatus_bit5 s _
  · rw [hreset] at h; cases h

/-- Settles O31: every reader of P sets U, every writer stores it as 1, and reset, PLP and RTI write P by `setStatus`. -/
theorem unusedReadsOne : Obligations.UnusedReadsOne := by
  unfold Obligations.UnusedReadsOne
  intro s v w f on
  have hstatus : s.status.getLsbD 5 = true := s.flag_u
  refine ⟨s.flag_u, s.setStatus_bit5 v, s.setStatus_bit5 _, ?_, s.setStatus_bit5 _, ?_, ?_, ?_,
    fun t => ⟨hostReset_unused, fun h => ?_, fun h => ?_⟩⟩
  · rw [hostRead, getLsbD_mkWord, if_pos (by decide), hstatus]
  · simpa [Flag.bit] using getLsbD_softwareStatus v .u
  · simpa [Flag.bit] using getLsbD_hardwareStatus v .u
  · simpa [Flag.bit] using getLsbD_pulledStatus v s.status .u
  · obtain ⟨-, -, n, rfl⟩ := exec_next h
    rw [finalState_plp rfl, State.setLastCycles_p, plpEffect]
    exact State.setStatus_bit5 _ _
  · obtain ⟨-, -, n, rfl⟩ := exec_next h
    rw [finalState_rti rfl, State.setLastCycles_p, State.returned, State.setPc_p, State.pulled_p, State.pulled_p]
    exact State.setStatus_bit5 _ _

/-- Settles O60: each input is one field. -/
theorem interruptInputs : Obligations.InterruptInputs := by
  unfold Obligations.InterruptInputs
  exact fun s level => ⟨rfl, rfl, rfl⟩

end Sys2Proof.Machine
end
